-- ==== Sys2Proof/Word.lean ====
section
/-! DEFINITION. The byte and the display write: the two data shapes every other file uses. -/

namespace Sys2Proof

/-- The unit of the display bus, `LCD_D[7:0]` (rules R35, R57). -/
abbrev Byte := BitVec 8

/-- One display write `(rs, byte)` (rules R10 (a), R32): `rs = false` is the command register, `rs = true` the
data register (rules R36, R54). -/
structure LcdWrite where
  rs   : Bool
  byte : Byte
deriving DecidableEq, Repr

end Sys2Proof
end

