-- ==== Sys2Proof/Config.lean ====
section
/-! DEFINITION. The implementation parameters of rule R6, and the one free value of the model. -/

namespace Sys2Proof

/-- `OVF_MODE` of rule R6: what an arithmetic result outside the `W`-bit range does (rule R172, U1). -/
inductive OvfMode where
  | wrap
  | fault
deriving DecidableEq, Repr

/-- `NROWS` and `NCOLS` of rule R6: the source says 4, and the encodings of positions, patterns and samples (R71 to R73)
leave room for no other value. -/
inductive MatrixSize where
  | four
deriving DecidableEq, Repr

def MatrixSize.toNat : MatrixSize → Nat
  | .four => 4

/-- `LCD_DW` of rule R6: 8, and "a model refuses any other width" (U7). -/
inductive BusWidth where
  | eight
deriving DecidableEq, Repr

def BusWidth.toNat : BusWidth → Nat
  | .eight => 8

/-- The parameters of rule R6, in its order (`TU` is left out, log entry 5). `keymap` is the ROM of space KM, indexed by position (rules R53, R79);
`chr` holds the codes of the sixteen displayed characters in the order of `Glyph.index` (rule R82). -/
structure Config where
  w          : Nat
  ovf        : OvfMode
  nRows      : MatrixSize
  nCols      : MatrixSize
  keymap     : Vector (BitVec 4) 16
  chr        : Vector Byte 16
  lcdDw      : BusWidth
  lcdLines   : Nat
  lcdCols    : Nat
  tES        : Nat
  tEW        : Nat
  tEH        : Nat
  tStab      : Nat
  tSettle    : Nat
  tPwron     : Nat
  tuCycles   : Nat
  cmdFuncset : Byte
  cmdDispon  : Byte
  cmdClear   : Byte
  cmdEntry   : Byte
deriving DecidableEq, Repr

/-- FREE VALUE (rules R44, R65, U12; log entry 6): the switches at the `n`-th sample for which the environment's
schedule in State lists nothing. It has no body, so nothing can be proved of its value. -/
opaque Config.freeMatrix : Nat → BitVec 16

end Sys2Proof
end

