-- ==== Sys2Proof/Machine/Reference.lean ====
section
/-! DEFINITION. The reference values of the parameters (rules R6, R79, R81, R82), the displayed characters, the
initialisation commands, and the lengths of delays in clock cycles. -/

namespace Sys2Proof

/-- The sixteen characters KPCALC ever shows (rule R82): ten digits, four operator characters, `E` and `r`. The minus
sign of a negative result is the character of the SUB echo. -/
inductive Glyph where
  | digit (d : Fin 10)
  | plus
  | minus
  | times
  | slash
  | letterE
  | letterR
deriving DecidableEq, Repr

/-- The place of a character in `Config.chr`. -/
def Glyph.index : Glyph → Fin 16
  | .digit d => ⟨d.val, by omega⟩
  | .plus    => 10
  | .minus   => 11
  | .times   => 12
  | .slash   => 13
  | .letterE => 14
  | .letterR => 15

/-- `CHR` (rule R6): the code of a displayed character. -/
def Config.code (cfg : Config) (g : Glyph) : Byte := cfg.chr[g.index]

/-- The ASCII codes of rule R82, by `Glyph.index`. -/
def asciiCodes : Vector Byte 16 :=
  #v[0x30, 0x31, 0x32, 0x33, 0x34, 0x35, 0x36, 0x37, 0x38, 0x39, 0x2B, 0x2D, 0x2A, 0x2F, 0x45, 0x72]

/-- The default key map of rule R79 as a ROM indexed by `p = 4r + c`. -/
def referenceKeymap : Vector (BitVec 4) 16 :=
  #v[0x7, 0x8, 0x9, 0xF, 0x4, 0x5, 0x6, 0xE, 0x1, 0x2, 0x3, 0xD, 0xA, 0x0, 0xB, 0xC]

/-- The reference column of rule R6. `TU_CYCLES` has no reference value there: 1 is the model's (log entry 5). -/
def Config.reference : Config where
  w          := 16
  ovf        := .wrap
  nRows      := .four
  nCols      := .four
  keymap     := referenceKeymap
  chr        := asciiCodes
  lcdDw      := .eight
  lcdLines   := 2
  lcdCols    := 16
  tES        := 1
  tEW        := 1
  tEH        := 1
  tStab      := 10
  tSettle    := 200
  tPwron     := 0
  tuCycles   := 1
  cmdFuncset := 0x38
  cmdDispon  := 0x0C
  cmdClear   := 0x01
  cmdEntry   := 0x06

/-- What `delay(T)` loads into `dly`: `T * TU_CYCLES` (rules R29, R209). -/
def Config.cycles (cfg : Config) (t : Nat) : Nat := t * cfg.tuCycles

/-- The four initialisation commands in order (rules R110, R43 `txq`). -/
def initCommands (cfg : Config) : List LcdWrite :=
  [⟨false, cfg.cmdFuncset⟩, ⟨false, cfg.cmdDispon⟩, ⟨false, cfg.cmdClear⟩, ⟨false, cfg.cmdEntry⟩]

end Sys2Proof
end

