-- ==== Sys2Proof/Syntax.lean ====
section
/-! DEFINITION. The instructions of KPCALC: one constructor for each row of spec/opcode_table.json (rule R88). -/

namespace Sys2Proof

/-- The four operators (rules R22, R77). -/
inductive Op where
  | add
  | sub
  | mul
  | div
deriving DecidableEq, Repr

/-- Rule R88: sixteen key events (rule R74), four row selects (R72), four display commands (R81) and the data write
with its character as a field (R102). -/
inductive Instr where
  | key0
  | key1
  | key2
  | key3
  | key4
  | key5
  | key6
  | key7
  | key8
  | key9
  | keyClr
  | keyEq
  | keyAdd
  | keySub
  | keyMul
  | keyDiv
  | rowSel0
  | rowSel1
  | rowSel2
  | rowSel3
  | lcdFuncset
  | lcdDispon
  | lcdClear
  | lcdEntry
  | lcdData (c : Byte)
deriving DecidableEq, Repr

end Sys2Proof
end

