-- ==== Sys2Proof/Machine/State.lean ====
section
/-! DEFINITION. The state of KPCALC as plain data, the reasons a step can stop, and the state after reset (rule R43). -/

namespace Sys2Proof.Machine

/-- The phases of the main sequencer (rules R26, R191); their codes are `phaseCode`. Code 7 is never entered. -/
inductive Phase where
  | boot
  | drive
  | stab
  | sample
  | hold
  | settle
  | dispatch
deriving DecidableEq, Repr

/-- The phases of the display driver (rule R31); their codes are `lcdPhaseCode`. -/
inductive LcdPhase where
  | idle
  | setup
  | pulse
  | hold
deriving DecidableEq, Repr

/-- Everything the spec gives the machine, its surroundings' inputs, and the observations of rule R10.
INVENTORY.md lists each field with its rule and its reset value. -/
structure State where
  /-- the parameters of rule R6; no step changes them (log entry 2) -/
  cfg      : Config
  /-- R20, R21: the operands, signed `W`-bit values as integers (log entry 2) -/
  op1      : Int
  op2      : Int
  /-- R22: the pending operator; its three bits are `State.pendBits` -/
  pend     : Option Op
  /-- R26 -/
  ph       : Phase
  /-- R27 -/
  row      : BitVec 2
  /-- R28 -/
  kpos     : BitVec 4
  kcode    : BitVec 4
  /-- the model's own: a key event has been delivered (R135) and not yet applied (R195) (log entry 10) -/
  kev      : Bool
  /-- R29 -/
  dly      : Nat
  /-- R30 -/
  bootI    : BitVec 2
  /-- R31 -/
  lph      : LcdPhase
  /-- R32 -/
  txq      : List LcdWrite
  /-- R33: `ROW[3:0]` -/
  rowPins  : BitVec 4
  /-- R35 to R38: `LCD_D`, `LCD_RS`, `LCD_RW`, `LCD_E` -/
  lcdD     : Byte
  lcdRs    : Bool
  lcdRw    : Bool
  lcdE     : Bool
  /-- R10 (a): the display trace since reset, oldest first -/
  trace    : List LcdWrite
  /-- R10 (b): the values driven on the row lines by row selects since reset, oldest first; the reset level is not in it
  (log entry 22) -/
  rowTrace : List (BitVec 4)
  /-- R44, R51: the switch matrix at the last sampling instant; bit `4r + c` is 1 when the switch (r, c) is closed -/
  closed   : BitVec 16
  /-- R13 (a), R65: the matrices the coming column samples will see -/
  keys     : List (BitVec 16)
  /-- the model's own: how many free matrices have been drawn (log entry 6) -/
  draws    : Nat
  /-- R39, R220: the levels of `rst_n` at the coming clock edges; after the last it stays high (log entry 7) -/
  rstSched : List Bool
deriving DecidableEq, Repr

/-- The reasons a step can stop with a fault. -/
inductive Fault where
  /-- Raised by a digit key and by Equals, only under `OVF_MODE` = `fault`, when the mathematical result lies outside
  the `W`-bit range (U1, U2; rule R172). Safe: the machine stops where the source calls the value undefined. At the
  reference `OVF_MODE` = `wrap` nothing raises it. -/
  | overflow
deriving DecidableEq, Repr

/-- The reasons a step can be refused. -/
inductive Refusal where
  /-- An instruction without a meaning, rejected by name in an arm of `exec`. Safe. No arm does so now. -/
  | notModelled (mnemonic : String)
deriving DecidableEq, Repr

/-- The outcome of a step or of an instruction. -/
abbrev Result := Host.Outcome State Fault Refusal

/-- The state after reset under given parameters: the table of rule R43 (R221). `kpos`, `kcode` and `closed` are
unspecified there; 0 is the model's (DESIGN CHOICE, log entries 8 and 9). `rowTrace` starts without the reset level
0b1111 of the row lines (DESIGN CHOICE, log entry 22). -/
def State.resetWith (cfg : Config) : State where
  cfg      := cfg
  op1      := 0
  op2      := 0
  pend     := none
  ph       := .boot
  row      := 0
  kpos     := 0
  kcode    := 0
  kev      := false
  dly      := cfg.cycles cfg.tPwron
  bootI    := 0
  lph      := .idle
  txq      := initCommands cfg
  rowPins  := 0b1111
  lcdD     := 0x00
  lcdRs    := false
  lcdRw    := false
  lcdE     := false
  trace    := []
  rowTrace := []
  closed   := 0
  keys     := []
  draws    := 0
  rstSched := []

/-- The state after reset at the reference parameters (rules R6, R43). -/
def State.reset : State := State.resetWith Config.reference

end Sys2Proof.Machine
end

