-- ==== Sys2Proof/Machine/Operands.lean ====
section
/-! DEFINITION. Operand forms: positions, row patterns and column samples (rules R71 to R73), digits and operators
(R76 to R78), `W`-bit arithmetic (R9, R170 to R176), and the decimal rendering of a result (R181). -/

namespace Sys2Proof.Machine

/-! ### Positions, rows and columns -/

/-- POS (rule R71): `p = 4r + c`. -/
def posOf (r c : BitVec 2) : BitVec 4 := r ++ c

def posRow (p : BitVec 4) : BitVec 2 := p.extractLsb' 2 2

def posCol (p : BitVec 4) : BitVec 2 := p.extractLsb' 0 2

/-- ROWSEL (rule R72): `~(0b0001 << r)`. -/
def rowPattern (r : BitVec 2) : BitVec 4 := ~~~(0b0001#4 <<< r.toNat)

/-- Row `r` of the switch matrix (rule R51): bit `c` is cell (r, c). -/
def matrixRow (closed : BitVec 16) (r : Nat) : BitVec 4 := closed.extractLsb' (4 * r) 4

/-- The cells of row `r` that the row lines connect to a low level: all of them when `ROW[r]` is 0, none else. -/
def pulledLow (rowPins : BitVec 4) (closed : BitVec 16) (r : Nat) : BitVec 4 :=
  if rowPins.getLsbD r then 0 else matrixRow closed r

/-- The column lines `COL[3:0]` (rules R34, R52): a column reads 0 exactly when a closed switch connects it to a row
driven low, else 1. -/
def colLines (rowPins : BitVec 4) (closed : BitVec 16) : BitVec 4 :=
  ~~~(pulledLow rowPins closed 0 ||| pulledLow rowPins closed 1 |||
      pulledLow rowPins closed 2 ||| pulledLow rowPins closed 3)

/-- COLS decoding (rule R73): the lowest column that reads 0, none for 0b1111. -/
def firstLow (s : BitVec 4) : Option (BitVec 2) :=
  if s.getLsbD 0 = false then some 0
  else if s.getLsbD 1 = false then some 1
  else if s.getLsbD 2 = false then some 2
  else if s.getLsbD 3 = false then some 3
  else none

/-- Where `KEYMAP[r][c]` stands in the ROM of rule R79: `NCOLS * r + c` (rules R53, R71). -/
def keyIndex (cfg : Config) (p : BitVec 4) : Nat := cfg.nCols.toNat * (posRow p).toNat + (posCol p).toNat

theorem keyIndex_lt (cfg : Config) (p : BitVec 4) : keyIndex cfg p < 16 := by
  have h1 := (posRow p).isLt
  have h2 := (posCol p).isLt
  simp only [keyIndex, MatrixSize.toNat]
  omega

/-- The key map read `KEYMAP[r][c]` at position `p` (rules R53, R130). -/
def keyAt (cfg : Config) (p : BitVec 4) : BitVec 4 := cfg.keymap[keyIndex cfg p]'(keyIndex_lt cfg p)

/-! ### Keys -/

/-- The classes of keys (rule R75). -/
inductive KeyClass where
  | digit
  | clear
  | equals
  | operator
deriving DecidableEq, Repr

/-- Class decode (rules R75, R151). -/
def classOf (k : BitVec 4) : KeyClass :=
  if k ≤ 9#4 then .digit
  else if k.extractLsb' 2 2 = 0b11#2 then .operator
  else if k = 0xA#4 then .clear
  else .equals

/-- The operator field of a key code, and `pend_op` (rules R77, R87). -/
def opBits : Op → BitVec 2
  | .add => 0b00
  | .sub => 0b01
  | .mul => 0b10
  | .div => 0b11

def opOfBits (b : BitVec 2) : Op := #v[Op.add, Op.sub, Op.mul, Op.div][b.toNat]'b.isLt

/-- The echo character of an operator key (rule R78). -/
def opGlyph : Op → Glyph
  | .add => .plus
  | .sub => .minus
  | .mul => .times
  | .div => .slash

/-! ### Arithmetic -/

/-- `wrap_W` (rule R9): the value in the `W`-bit signed range that is congruent to `v` modulo `2^W`. -/
def wrapW (cfg : Config) (v : Int) : Int := Int.bmod v (2 ^ cfg.w)

/-- `-2^(W-1) <= v < 2^(W-1)` (rule R171). -/
abbrev inRange (cfg : Config) (v : Int) : Prop := -(2 ^ (cfg.w - 1) : Int) ≤ v ∧ v < (2 ^ (cfg.w - 1) : Int)

/-- Bringing a mathematical result to `W` bits under `OVF_MODE` (rules R172, R179, R180; U1). -/
def narrow (cfg : Config) (v : Int) : Except Fault Int :=
  match cfg.ovf with
  | .wrap  => .ok (wrapW cfg v)
  | .fault => if inRange cfg v then .ok v else .error .overflow

/-- `tdiv` (rule R9): the quotient rounded toward zero. -/
def tdiv (a b : Int) : Int := a.sign * b.sign * (a.natAbs / b.natAbs : Nat)

/-- The operation over the mathematical integers (rule R170). -/
def mathResult (op : Op) (a b : Int) : Int :=
  match op with
  | .add => a + b
  | .sub => a - b
  | .mul => a * b
  | .div => tdiv a b

/-- `Compute` (rules R170, R173 to R176, R178). -/
def compute (cfg : Config) (op : Op) (a b : Int) : Except Fault Int := narrow cfg (mathResult op a b)

/-- An operand register as its `W` bits (rules R20, R21). -/
def operandBits (cfg : Config) (v : Int) : BitVec cfg.w := BitVec.ofInt cfg.w v

/-! ### Rendering -/

/-- The decimal digits of `m`, most significant first; the first argument bounds the number of digits but one. -/
def decDigits : Nat → Nat → List (Fin 10)
  | 0, m => [⟨m % 10, Nat.mod_lt m (by decide)⟩]
  | fuel + 1, m =>
    if m < 10 then [⟨m % 10, Nat.mod_lt m (by decide)⟩]
    else decDigits fuel (m / 10) ++ [⟨m % 10, Nat.mod_lt m (by decide)⟩]

/-- `DecStr` (rule R181) as characters: a minus sign for negative values, then the digits of the magnitude. -/
def decGlyphs (v : Int) : List Glyph :=
  (if v < 0 then [Glyph.minus] else []) ++ (decDigits v.natAbs v.natAbs).map Glyph.digit

/-- The literal text `"Err"` (rules R82, R202). -/
def errGlyphs : List Glyph := [.letterE, .letterR, .letterR]

end Sys2Proof.Machine
end

