-- ==== Sys2Proof/Machine/Flags.lean ====
section
/-! DEFINITION. The one flag `pend_v` with `pend_op` (rules R22, R42, R87), and the codes of the phase registers
(rules R31, R191). -/

namespace Sys2Proof.Machine

/-- `pend_v` (rule R87). -/
def State.pendV (s : State) : Bool := s.pend.isSome

/-- `pend_op`, kept 0b00 while `pend_v` = 0 (rules R43, R87). -/
def State.pendOp (s : State) : BitVec 2 :=
  match s.pend with
  | none => 0b00
  | some op => opBits op

/-- The PEND format `(pend_v, pend_op)` (rules R70, R87). -/
def pendBits (p : Option Op) : BitVec 3 :=
  match p with
  | none => 0b000
  | some op => 1#1 ++ opBits op

/-- What three PEND bits mean; `pend_op` is not read while `pend_v` = 0 (rule R83). -/
def pendOfBits (b : BitVec 3) : Option Op :=
  if b.getLsbD 2 then some (opOfBits (b.extractLsb' 0 2)) else none

/-- The code of `ph` (rule R191). -/
def phaseCode : Phase → BitVec 3
  | .boot     => 0
  | .drive    => 1
  | .stab     => 2
  | .sample   => 3
  | .hold     => 4
  | .settle   => 5
  | .dispatch => 6

/-- The code of `lph` (rule R31). -/
def lcdPhaseCode : LcdPhase → BitVec 2
  | .idle  => 0
  | .setup => 1
  | .pulse => 2
  | .hold  => 3

end Sys2Proof.Machine
end

