-- ==== Sys2Proof/Machine/Ops.lean ====
section
/-! DEFINITION. The shared operations: delays (R29), display writes queued by a key event (R32, R86), the bus write
transaction (R100), row select (R121 to R124), the column sample (R52), the Calculator State reset (R25), and taking the
one exception (R202) with its return (R203). -/

namespace Sys2Proof.Machine

/-- `f` on the next state; a stop stays a stop. -/
def onNext (f : State → State) : Result → Result
  | .next s    => .next (f s)
  | .fault r   => .fault r
  | .refused r => .refused r

/-! ### Delays -/

/-- One clock edge of a running delay (rules R29, R209). -/
def countDown (s : State) : State := { s with dly := s.dly - 1 }

/-- The edge at which the delay counter reaches 0 and the sequencer leaves the phase (rule R29; log entry 1). -/
def expired (s : State) : Bool := decide (s.dly ≤ 1)

/-! ### Display writes of a key event: appended to `txq`, performed by the driver (rule R32, conflict C9) -/

/-- Append display writes in order. -/
def queueWrites (ws : List LcdWrite) (s : State) : State := { s with txq := s.txq ++ ws }

/-- The writes of `send_command(code)` (rule R101) and `send_data(byte)` (rule R102). -/
def commandWrite (code : Byte) : LcdWrite := ⟨false, code⟩

def dataWrite (byte : Byte) : LcdWrite := ⟨true, byte⟩

/-- `display_string(text)`: `send_data` of each character, in order (rule R103). -/
def displayString (cfg : Config) (text : List Glyph) : List LcdWrite :=
  text.map fun g => dataWrite (cfg.code g)

/-- `display_number(v)`: clear, then the decimal string (rules R86, R169, R181). -/
def displayNumber (cfg : Config) (v : Int) : List LcdWrite :=
  commandWrite cfg.cmdClear :: displayString cfg (decGlyphs v)

/-! ### The Calculator State -/

/-- `x[1] <- 0; x[2] <- 0; pend <- none` (rules R25, R168, R169). -/
def clearCalc (s : State) : State := { s with op1 := 0, op2 := 0, pend := none }

/-- `raise DivideByZero()` (rule R202): the text `Err`, with no clear command before it; nothing is saved. -/
def raiseDivideByZero (s : State) : State := queueWrites (displayString s.cfg errGlyphs) s

/-- The return of control to the Equals step, which resets the Calculator State (rules R202, R203). -/
def returnFromDivideByZero (s : State) : State := clearCalc s

/-! ### The display bus -/

/-- `LcdWrite(rs, v)` (rule R100), one clock edge of it: the bus write that starts the transaction when the driver is
idle, else the next edge of the transaction in progress (log entry 12). -/
def lcdWrite (rs : Bool) (v : Byte) (s : State) : State :=
  match s.lph with
  | .idle =>
    { s with lcdRs := rs, lcdRw := false, lcdD := v, lph := .setup, dly := s.cfg.cycles s.cfg.tES }
  | .setup =>
    if expired s then { s with lcdE := true, lph := .pulse, dly := s.cfg.cycles s.cfg.tEW } else countDown s
  | .pulse =>
    if expired s then
      { s with lcdE := false, trace := s.trace ++ [⟨rs, v⟩], lph := .hold, dly := s.cfg.cycles s.cfg.tEH }
    else countDown s
  | .hold =>
    if expired s then { s with lph := .idle, dly := 0 } else countDown s

/-! ### The matrix -/

/-- ROW_SEL`r` (rules R121 to R124): `row <- r`, and the row lines take the pattern of rule R72. -/
def selectRow (r : BitVec 2) (s : State) : State :=
  { s with row := r, rowPins := rowPattern r, rowTrace := s.rowTrace ++ [rowPattern r] }

/-- The switches at a sampling instant (rule R65): the next matrix of the schedule, or a free one. -/
def observeMatrix (s : State) : State :=
  match s.keys with
  | m :: rest => { s with closed := m, keys := rest }
  | []        => { s with closed := Config.freeMatrix s.draws, draws := s.draws + 1 }

/-- The column lines as they stand (rules R34, R52). -/
def State.col (s : State) : BitVec 4 := colLines s.rowPins s.closed

end Sys2Proof.Machine
end

