-- ==== Sys2Proof/Machine/ClearEquals.lean ====
section
/-! DEFINITION. Clear and Equals (rules R168, R169). -/

namespace Sys2Proof.Machine

/-- KEY_CLR (rule R168): the Calculator State is reset and the display cleared; no echo. -/
def execKeyClr (s : State) : Result :=
  .next (queueWrites [commandWrite s.cfg.cmdClear] (clearCalc s))

/-- The result display of Equals and the reset of the Calculator State after it (rule R169). -/
def showResult (v : Int) (s : State) : State := clearCalc (queueWrites (displayNumber s.cfg v) s)

/-- KEY_EQ (rule R169), its three tests in the order of rule R205: no operator pending, a zero divisor, the result. -/
def execKeyEq (s : State) : Result :=
  match s.pend with
  | none => .next s
  | some op =>
    if op = .div ∧ s.op2 = 0 then .next (returnFromDivideByZero (raiseDivideByZero s))
    else
      match compute s.cfg op s.op1 s.op2 with
      | .ok v    => .next (showResult v s)
      | .error f => .fault f

end Sys2Proof.Machine
end

