-- ==== Sys2Proof/Machine/Digit.lean ====
section
/-! DEFINITION. The ten digit keys (rules R152 to R162). -/

namespace Sys2Proof.Machine

/-- The echo of a digit key, after its accumulation (rules R78, R152). -/
def echoDigit (d : Fin 10) (s : State) : State := queueWrites [dataWrite (s.cfg.code (.digit d))] s

/-- `DigitStep(d)` (rule R152): `x*10 + d` into the first operand with no operator pending, into the second otherwise,
and the echo. -/
def digitStep (d : Fin 10) (s : State) : Result :=
  match s.pend with
  | none =>
    match narrow s.cfg (s.op1 * 10 + d.val) with
    | .ok v    => .next (echoDigit d { s with op1 := v })
    | .error f => .fault f
  | some _ =>
    match narrow s.cfg (s.op2 * 10 + d.val) with
    | .ok v    => .next (echoDigit d { s with op2 := v })
    | .error f => .fault f

/-- KEY_0 (rule R153). -/
def execKey0 (s : State) : Result := digitStep 0 s
/-- KEY_1 (rule R154). -/
def execKey1 (s : State) : Result := digitStep 1 s
/-- KEY_2 (rule R155). -/
def execKey2 (s : State) : Result := digitStep 2 s
/-- KEY_3 (rule R156). -/
def execKey3 (s : State) : Result := digitStep 3 s
/-- KEY_4 (rule R157). -/
def execKey4 (s : State) : Result := digitStep 4 s
/-- KEY_5 (rule R158). -/
def execKey5 (s : State) : Result := digitStep 5 s
/-- KEY_6 (rule R159). -/
def execKey6 (s : State) : Result := digitStep 6 s
/-- KEY_7 (rule R160). -/
def execKey7 (s : State) : Result := digitStep 7 s
/-- KEY_8 (rule R161). -/
def execKey8 (s : State) : Result := digitStep 8 s
/-- KEY_9 (rule R162). -/
def execKey9 (s : State) : Result := digitStep 9 s

end Sys2Proof.Machine
end

