-- ==== Sys2Proof/Machine/Display.lean ====
section
/-! DEFINITION. The four display commands and the data write (rules R101, R102, R106 to R109), each one bus write
transaction of rule R100 that takes one step for each clock edge, its progress held in `lph` and `dly`. -/

namespace Sys2Proof.Machine

/-- LCD_FUNCSET (rule R106). -/
def execLcdFuncset (s : State) : Result := .next (lcdWrite false s.cfg.cmdFuncset s)
/-- LCD_DISPON (rule R107). -/
def execLcdDispon (s : State) : Result := .next (lcdWrite false s.cfg.cmdDispon s)
/-- LCD_CLEAR (rule R108). -/
def execLcdClear (s : State) : Result := .next (lcdWrite false s.cfg.cmdClear s)
/-- LCD_ENTRY (rule R109). -/
def execLcdEntry (s : State) : Result := .next (lcdWrite false s.cfg.cmdEntry s)
/-- LCD_DATA (rule R102). -/
def execLcdData (c : Byte) (s : State) : Result := .next (lcdWrite true c s)

end Sys2Proof.Machine
end

