-- ==== Sys2Proof/Machine/Operator.lean ====
section
/-! DEFINITION. The four operator keys (rules R163 to R167). -/

namespace Sys2Proof.Machine

/-- `OperatorStep(op)` (rule R163): the operator becomes pending, whatever was there, and is echoed. -/
def operatorStep (op : Op) (s : State) : Result :=
  .next (queueWrites [dataWrite (s.cfg.code (opGlyph op))] { s with pend := some op })

/-- KEY_ADD (rule R164). -/
def execKeyAdd (s : State) : Result := operatorStep .add s
/-- KEY_SUB (rule R165). -/
def execKeySub (s : State) : Result := operatorStep .sub s
/-- KEY_MUL (rule R166). -/
def execKeyMul (s : State) : Result := operatorStep .mul s
/-- KEY_DIV (rule R167). -/
def execKeyDiv (s : State) : Result := operatorStep .div s

end Sys2Proof.Machine
end

