-- ==== Sys2Proof/Machine/RowSelect.lean ====
section
/-! DEFINITION. The four row selects (rules R121 to R124). -/

namespace Sys2Proof.Machine

/-- ROW_SEL0 (rule R121). -/
def execRowSel0 (s : State) : Result := .next (selectRow 0 s)
/-- ROW_SEL1 (rule R122). -/
def execRowSel1 (s : State) : Result := .next (selectRow 1 s)
/-- ROW_SEL2 (rule R123). -/
def execRowSel2 (s : State) : Result := .next (selectRow 2 s)
/-- ROW_SEL3 (rule R124). -/
def execRowSel3 (s : State) : Result := .next (selectRow 3 s)

end Sys2Proof.Machine
end

