-- ==== Sys2Proof/Machine/Dispatch.lean ====
section
/-! DEFINITION. exec: one arm per instruction, each one direct call of its meaning. -/

namespace Sys2Proof.Machine

def exec (i : Instr) (s : State) : Host.Outcome State Fault Refusal :=
  match i with
  | .key0 => Sys2Proof.Machine.execKey0 s
  | .key1 => Sys2Proof.Machine.execKey1 s
  | .key2 => Sys2Proof.Machine.execKey2 s
  | .key3 => Sys2Proof.Machine.execKey3 s
  | .key4 => Sys2Proof.Machine.execKey4 s
  | .key5 => Sys2Proof.Machine.execKey5 s
  | .key6 => Sys2Proof.Machine.execKey6 s
  | .key7 => Sys2Proof.Machine.execKey7 s
  | .key8 => Sys2Proof.Machine.execKey8 s
  | .key9 => Sys2Proof.Machine.execKey9 s
  | .keyClr => Sys2Proof.Machine.execKeyClr s
  | .keyEq => Sys2Proof.Machine.execKeyEq s
  | .keyAdd => Sys2Proof.Machine.execKeyAdd s
  | .keySub => Sys2Proof.Machine.execKeySub s
  | .keyMul => Sys2Proof.Machine.execKeyMul s
  | .keyDiv => Sys2Proof.Machine.execKeyDiv s
  | .rowSel0 => Sys2Proof.Machine.execRowSel0 s
  | .rowSel1 => Sys2Proof.Machine.execRowSel1 s
  | .rowSel2 => Sys2Proof.Machine.execRowSel2 s
  | .rowSel3 => Sys2Proof.Machine.execRowSel3 s
  | .lcdFuncset => Sys2Proof.Machine.execLcdFuncset s
  | .lcdDispon => Sys2Proof.Machine.execLcdDispon s
  | .lcdClear => Sys2Proof.Machine.execLcdClear s
  | .lcdEntry => Sys2Proof.Machine.execLcdEntry s
  | .lcdData c => Sys2Proof.Machine.execLcdData c s

end Sys2Proof.Machine
end

