-- ==== Sys2Proof/WellFormed.lean ====
section
/-! DEFINITION. Which instructions KPCALC can issue: the character of a data write is one of the sixteen of rule R82. -/

namespace Sys2Proof

/-- Rules R82, R83: "characters other than the sixteen of rule R82 are never emitted". Every other row has no operand
and is always well formed. (`send_data` itself takes any byte, rule R102, and so do the decoder and the meaning.) -/
def Instr.wellFormed (cfg : Config) : Instr → Bool
  | .key0 | .key1 | .key2 | .key3 | .key4 | .key5 | .key6 | .key7 | .key8 | .key9 => true
  | .keyClr | .keyEq | .keyAdd | .keySub | .keyMul | .keyDiv => true
  | .rowSel0 | .rowSel1 | .rowSel2 | .rowSel3 => true
  | .lcdFuncset | .lcdDispon | .lcdClear | .lcdEntry => true
  | .lcdData c => cfg.chr.toList.contains c

end Sys2Proof
end

