-- ==== Sys2Proof/Decode.lean ====
section
/-! DEFINITION. The formats of rule R70 that carry instructions (KEY, ROWSEL, LCDW), their decoders, total and
rejecting by name, and after them the encoder written from the same tables (rules R72, R74, R80, R81). -/

namespace Sys2Proof

/-- Why a word is no instruction of the table. Nothing in the machine traps on one (rule R83). -/
inductive DecodeError where
  /-- a ROWSEL pattern without exactly one 0 bit: "the other eleven are never driven" (R83), or the idle 0b1111 -/
  | rowPattern
  /-- an LCDW word with `RW` = 1: "never emitted" (R83) -/
  | readWord
  /-- an LCDW command that is none of the four of R81: "KPCALC never emits any other command" -/
  | otherCommand
  /-- bits above the format's width are not zero -/
  | highBits
  /-- neither one byte (KEY) nor two bytes (LCDW) -/
  | length
deriving DecidableEq, Repr

/-- A word together with the format it stands in (rule R70). KEY and ROWSEL have the same width and share words, so
the format is part of what is decoded (log entry 14). -/
inductive CodeWord where
  | key    (k : BitVec 4)
  | rowsel (p : BitVec 4)
  | lcdw   (w : BitVec 10)
deriving DecidableEq, Repr

/-- The KEY codes in the order of their numbers (rule R74); all sixteen are defined. -/
def keyInstrs : Vector Instr 16 :=
  #v[.key0, .key1, .key2, .key3, .key4, .key5, .key6, .key7, .key8, .key9,
     .keyClr, .keyEq, .keyAdd, .keySub, .keyMul, .keyDiv]

/-- KEY (rule R74). -/
def decodeKey (k : BitVec 4) : Instr := keyInstrs[k.toNat]'k.isLt

/-- ROWSEL (rule R72): the four patterns with exactly one 0 bit. -/
def decodeRowsel (p : BitVec 4) : Except DecodeError Instr :=
  if p = 0b1110#4 then .ok .rowSel0
  else if p = 0b1101#4 then .ok .rowSel1
  else if p = 0b1011#4 then .ok .rowSel2
  else if p = 0b0111#4 then .ok .rowSel3
  else .error .rowPattern

/-- LCDW (rules R80, R81): bit 9 is `RS`, bit 8 is `RW`, bits 7:0 are `D`: above the `LCD_DW` data
bits stand `RW` and `RS`. -/
def decodeLcdw (cfg : Config) (w : BitVec 10) : Except DecodeError Instr :=
  let d : Byte := w.extractLsb' 0 8
  if w.getLsbD cfg.lcdDw.toNat then .error .readWord
  else if w.getLsbD (cfg.lcdDw.toNat + 1) then .ok (.lcdData d)
  else if d = cfg.cmdFuncset then .ok .lcdFuncset
  else if d = cfg.cmdDispon then .ok .lcdDispon
  else if d = cfg.cmdClear then .ok .lcdClear
  else if d = cfg.cmdEntry then .ok .lcdEntry
  else .error .otherCommand

/-- Decoding a word in its format. -/
def decode (cfg : Config) : CodeWord → Except DecodeError Instr
  | .key k    => .ok (decodeKey k)
  | .rowsel p => decodeRowsel p
  | .lcdw w   => decodeLcdw cfg w

/-- Decoding bytes, least significant byte first (log entry 14): one byte is a KEY code, two are an LCDW word. -/
def decodeBytes (cfg : Config) : List Byte → Except DecodeError Instr
  | [b] => if b.extractLsb' 4 4 = 0#4 then .ok (decodeKey (b.extractLsb' 0 4)) else .error .highBits
  | [b0, b1] => if b1.extractLsb' 2 6 = 0#6 then decodeLcdw cfg (b1.extractLsb' 0 2 ++ b0) else .error .highBits
  | _ => .error .length

/-- The bytes of an `nbits`-bit word, least significant byte first. -/
def tableBytes (nbits w : Nat) : List Byte :=
  (List.range ((nbits + 7) / 8)).map fun i => BitVec.ofNat 8 (w >>> (8 * i))

/-- What the decoder reads from a word of spec/opcode_table.json, under the reference command codes. A ROWSEL word is
also a KEY word; as a bare word it reads as the KEY (log entry 14). -/
def decodeTableWord (nbits w : Nat) : Option Instr :=
  (decodeBytes Config.reference (tableBytes nbits w)).toOption

/-- The LCDW word `(RS, RW = 0, D)` of a display write (rule R80). -/
def lcdWord (w : LcdWrite) : BitVec 10 := BitVec.ofBool w.rs ++ 0#1 ++ w.byte

/-- The encoder: the word of an instruction in its format (rules R72, R74, R80, R81, R102). -/
def encode (cfg : Config) : Instr → CodeWord
  | .key0       => .key 0x0#4
  | .key1       => .key 0x1#4
  | .key2       => .key 0x2#4
  | .key3       => .key 0x3#4
  | .key4       => .key 0x4#4
  | .key5       => .key 0x5#4
  | .key6       => .key 0x6#4
  | .key7       => .key 0x7#4
  | .key8       => .key 0x8#4
  | .key9       => .key 0x9#4
  | .keyClr     => .key 0xA#4
  | .keyEq      => .key 0xB#4
  | .keyAdd     => .key 0xC#4
  | .keySub     => .key 0xD#4
  | .keyMul     => .key 0xE#4
  | .keyDiv     => .key 0xF#4
  | .rowSel0    => .rowsel 0b1110#4
  | .rowSel1    => .rowsel 0b1101#4
  | .rowSel2    => .rowsel 0b1011#4
  | .rowSel3    => .rowsel 0b0111#4
  | .lcdFuncset => .lcdw (lcdWord ⟨false, cfg.cmdFuncset⟩)
  | .lcdDispon  => .lcdw (lcdWord ⟨false, cfg.cmdDispon⟩)
  | .lcdClear   => .lcdw (lcdWord ⟨false, cfg.cmdClear⟩)
  | .lcdEntry   => .lcdw (lcdWord ⟨false, cfg.cmdEntry⟩)
  | .lcdData c  => .lcdw (lcdWord ⟨true, c⟩)

/-- The four command codes are four different bytes, as at the reference values of rule R81. -/
def Config.commandsDistinct (cfg : Config) : Bool :=
  [cfg.cmdFuncset, cfg.cmdDispon, cfg.cmdClear, cfg.cmdEntry].Nodup

/-- One row of spec/opcode_table.json: the bits of a word under `mask` are `bits`. -/
structure TableRow where
  mask : Nat
  bits : Nat
deriving DecidableEq, Repr

/-- The `mask` and `match` columns of spec/opcode_table.json. -/
def tableRow : Instr → TableRow
  | .key0       => ⟨0xF, 0x0⟩
  | .key1       => ⟨0xF, 0x1⟩
  | .key2       => ⟨0xF, 0x2⟩
  | .key3       => ⟨0xF, 0x3⟩
  | .key4       => ⟨0xF, 0x4⟩
  | .key5       => ⟨0xF, 0x5⟩
  | .key6       => ⟨0xF, 0x6⟩
  | .key7       => ⟨0xF, 0x7⟩
  | .key8       => ⟨0xF, 0x8⟩
  | .key9       => ⟨0xF, 0x9⟩
  | .keyClr     => ⟨0xF, 0xA⟩
  | .keyEq      => ⟨0xF, 0xB⟩
  | .keyAdd     => ⟨0xF, 0xC⟩
  | .keySub     => ⟨0xF, 0xD⟩
  | .keyMul     => ⟨0xF, 0xE⟩
  | .keyDiv     => ⟨0xF, 0xF⟩
  | .rowSel0    => ⟨0xF, 0xE⟩
  | .rowSel1    => ⟨0xF, 0xD⟩
  | .rowSel2    => ⟨0xF, 0xB⟩
  | .rowSel3    => ⟨0xF, 0x7⟩
  | .lcdFuncset => ⟨0x3FF, 0x038⟩
  | .lcdDispon  => ⟨0x3FF, 0x00C⟩
  | .lcdClear   => ⟨0x3FF, 0x001⟩
  | .lcdEntry   => ⟨0x3FF, 0x006⟩
  | .lcdData _  => ⟨0x300, 0x200⟩

/-- The bits of a word as a number. -/
def CodeWord.toNat : CodeWord → Nat
  | .key k    => k.toNat
  | .rowsel p => p.toNat
  | .lcdw w   => w.toNat

/-- The script token of a key (rules R74, R85); any other character is no token. -/
def keyOfToken (c : Char) : Option Instr :=
  match c with
  | '0' => some .key0
  | '1' => some .key1
  | '2' => some .key2
  | '3' => some .key3
  | '4' => some .key4
  | '5' => some .key5
  | '6' => some .key6
  | '7' => some .key7
  | '8' => some .key8
  | '9' => some .key9
  | 'C' => some .keyClr
  | '=' => some .keyEq
  | '+' => some .keyAdd
  | '-' => some .keySub
  | '*' => some .keyMul
  | '/' => some .keyDiv
  | _   => none

end Sys2Proof
end

