-- ==== Sys2Proof/Machine/Sequencer.lean ====
section
/-! DEFINITION. The main sequencer (rules R190 to R199): which instruction the next clock edge runs, what the sequencer
does around it, the edges on which it runs none, and reset (R220). -/

namespace Sys2Proof.Machine

/-- The initialisation command number `boot_i` (rule R110). -/
def bootInstr (i : BitVec 2) : Instr :=
  #v[Instr.lcdFuncset, Instr.lcdDispon, Instr.lcdClear, Instr.lcdEntry][i.toNat]'i.isLt

/-- ROW_SEL`row` (rules R120 to R124, R191). -/
def rowSelInstr (r : BitVec 2) : Instr :=
  #v[Instr.rowSel0, Instr.rowSel1, Instr.rowSel2, Instr.rowSel3][r.toNat]'r.isLt

/-- The instruction the next clock edge runs, if it runs one. In `PH_BOOT` after the power-on wait: the initialisation
command `boot_i` (R110). In `PH_DRIVE`: ROW_SEL`row` (R191). In `PH_DISPATCH`: first the key `kcode` (R151, R195), then
the display write at the front of `txq`. -/
def nextInstr (s : State) : Option Instr :=
  match s.ph with
  | .boot     => if s.lph = .idle ∧ s.dly ≠ 0 then none else some (bootInstr s.bootI)
  | .drive    => some (rowSelInstr s.row)
  | .stab     => none
  | .sample   => none
  | .hold     => none
  | .settle   => none
  | .dispatch =>
    if s.kev then some (decodeKey s.kcode)
    else
      match s.txq with
      | []     => none
      | w :: _ => (decodeLcdw s.cfg (lcdWord w)).toOption

/-- The front write leaves `txq` when its transaction is complete (rules R32, R195; log entry 11). -/
def popDone (s : State) : State :=
  match s.lph with
  | .idle  => { s with txq := s.txq.tail }
  | .setup => s
  | .pulse => s
  | .hold  => s

/-- After an edge of a boot transaction: the next command, or the main loop after the fourth (rules R110, R192). -/
def bootAdvance (s : State) : State :=
  match s.lph with
  | .idle  =>
    if s.bootI = 3 then { s with txq := s.txq.tail, row := 0, ph := .drive }
    else { s with txq := s.txq.tail, bootI := s.bootI + 1 }
  | .setup => s
  | .pulse => s
  | .hold  => s

/-- What the sequencer does at the same edge as an instruction (rules R191, R192, R195). The key event is spent when its
key has been applied (R185). -/
def afterInstr (s : State) : State :=
  match s.ph with
  | .boot     => bootAdvance s
  | .drive    => { s with ph := .stab, dly := s.cfg.cycles s.cfg.tStab }
  | .stab     => s
  | .sample   => s
  | .hold     => s
  | .settle   => s
  | .dispatch => if s.kev then { s with kev := false } else popDone s

/-- The row after one without a key: the next one below `NROWS`, or row 0 of the next pass (rule R193). -/
def nextRow (s : State) : BitVec 2 := if s.row.toNat + 1 < s.cfg.nRows.toNat then s.row + 1 else 0

/-- `PH_SAMPLE` with the sample taken (rule R193): a key found, or the next row, or the next pass. -/
def afterSample (s : State) : State :=
  match firstLow s.col with
  | some c =>
    { s with kpos := posOf s.row c, kcode := keyAt s.cfg (posOf s.row c), ph := .hold }
  | none => { s with row := nextRow s, ph := .drive }

/-- `PH_HOLD` with the sample taken (rules R131, R194): only the column of the key found is looked at. -/
def afterHoldSample (s : State) : State :=
  if s.col.getLsbD (posCol s.kpos).toNat then { s with ph := .settle, dly := s.cfg.cycles s.cfg.tSettle } else s

/-- The end of `PH_DISPATCH` (rule R195), or an edge of a write that is no row of the opcode table (log entry 13). -/
def drainCycle (s : State) : State :=
  match s.txq with
  | []     => { s with row := 0, ph := .drive }
  | w :: _ => popDone (lcdWrite w.rs w.byte s)

/-- A clock edge that runs no instruction: delays, column samples and the phase changes after them (rules R191 to
R195). -/
def sequencerCycle (s : State) : State :=
  match s.ph with
  | .boot     => countDown s
  | .drive    => s
  | .stab     => if expired s then { s with ph := .sample, dly := 0 } else countDown s
  | .sample   => afterSample (observeMatrix s)
  | .hold     => afterHoldSample (observeMatrix s)
  | .settle   => if expired s then { s with ph := .dispatch, kev := true, dly := 0 } else countDown s
  | .dispatch => drainCycle s

/-- `rst_n` low (rule R220): every register at its reset value. The switches and the schedules of inputs are not the
block's; the observations start anew (log entry 7). -/
def heldInReset (rest : List Bool) (s : State) : State :=
  { State.resetWith s.cfg with closed := s.closed, keys := s.keys, draws := s.draws, rstSched := rest }

/-- `s` at the point where the very next clock edge runs `i` (log entry 15): a key as a delivered key event, a row select
as the phase `PH_DRIVE` with its row, a display write alone in `txq`. -/
def State.withNext (s : State) (i : Instr) : State :=
  match encode s.cfg i with
  | .key k    => { s with ph := .dispatch, kev := true, kcode := k, lph := .idle, txq := [], rstSched := [] }
  | .rowsel p => { s with ph := .drive, row := (firstLow p).getD 0, rstSched := [] }
  | .lcdw w   =>
    { s with ph := .dispatch, kev := false, lph := .idle, txq := [⟨w.getLsbD 9, w.extractLsb' 0 8⟩], rstSched := [] }

/-! ### The shown text (rule R111), computed from the display trace -/

/-- One display write: `none` is `shown_defined` = false. -/
def shownStep (cfg : Config) (shown : Option (List Byte)) (w : LcdWrite) : Option (List Byte) :=
  if w.rs then
    match shown with
    | none      => none
    | some text => if (text ++ [w.byte]).length > cfg.lcdCols then none else some (text ++ [w.byte])
  else if w.byte = cfg.cmdClear then some []
  else shown

/-- `shown` and `shown_defined` over a display trace. -/
def shownText (cfg : Config) (trace : List LcdWrite) : Option (List Byte) :=
  trace.foldl (shownStep cfg) none

/-- What the `LCD_LINES` lines of `LCD_COLS` cells show (space DS of R50, R55, R111): the shown text from the first
position of the first line, every other cell blank (`none`); nothing is said while the shown text is undefined. -/
def visibleDisplay (cfg : Config) (trace : List LcdWrite) : Option (List (List (Option Byte))) :=
  (shownText cfg trace).map fun text =>
    (List.range cfg.lcdLines).map fun line =>
      (List.range cfg.lcdCols).map fun col => if line = 0 then text[col]? else none

end Sys2Proof.Machine
end

