-- ==== Sys2Proof/Machine/Step.lean ====
section
/-! DEFINITION. step: one rising edge of clk (rules R39, R190), and the placing of a table word where the next step runs
it. -/

namespace Sys2Proof.Machine

/-- A clock edge with `rst_n` high: the instruction of `nextInstr` with what the sequencer does around it, or an edge
that runs none. -/
def clockEdge (s : State) : Host.Outcome State Fault Refusal :=
  match nextInstr s with
  | some i => onNext afterInstr (exec i s)
  | none   => .next (sequencerCycle s)

/-- One rising edge of clk, at the level that `rst_n` has then (rules R39, R220). -/
def step (s : State) : Host.Outcome State Fault Refusal :=
  match s.rstSched with
  | []            => clockEdge s
  | true :: rest  => clockEdge { s with rstSched := rest }
  | false :: rest => .next (heldInReset rest s)

/-- `s` with the table word `w` where the next step runs it (log entry 15); a word that decodes to nothing leaves `s`
as it is. -/
def State.withFetchWord (s : State) (nbits w : Nat) : State :=
  match decodeTableWord nbits w with
  | some i => s.withNext i
  | none   => s

end Sys2Proof.Machine
end

