-- ==== Sys2Proof/Safety.lean ====
section
/-! DEFINITION. The terms claims are stated in: runs of several edges, the invariant of the machine, and the rules
that the spec gives as tables of their own (R186, R191). -/

namespace Sys2Proof.Machine

/-! ### Runs -/

/-- `n` clock edges. -/
def steps : Nat → State → Result
  | 0, s => .next s
  | n + 1, s =>
    match step s with
    | .next t    => steps n t
    | .fault r   => .fault r
    | .refused r => .refused r

/-- `n` edges of one instruction: a display write takes `lcdEdges` of them (rule R100; log entry 12). -/
def execTimes : Nat → Instr → State → Result
  | 0, _, s => .next s
  | n + 1, i, s =>
    match exec i s with
    | .next t    => execTimes n i t
    | .fault r   => .fault r
    | .refused r => .refused r

/-- A key script (rule R85): each key once, in order. -/
def execAll : List Instr → State → Result
  | [], s => .next s
  | i :: rest, s =>
    match exec i s with
    | .next t    => execAll rest t
    | .fault r   => .fault r
    | .refused r => .refused r

/-- The edges `delay(T)` takes (rules R29, R209; log entry 1). -/
def delayEdges (cfg : Config) (t : Nat) : Nat := max 1 (cfg.cycles t)

/-- The edges of one bus write transaction, from idle to idle (rules R100, R244). -/
def lcdEdges (cfg : Config) : Nat := 1 + delayEdges cfg cfg.tES + delayEdges cfg cfg.tEW + delayEdges cfg cfg.tEH

/-! ### The key events as the spec tabulates them -/

/-- The digit keys with their digits (rules R74, R76). -/
def digitKeys : List (Instr × Fin 10) :=
  [(.key0, 0), (.key1, 1), (.key2, 2), (.key3, 3), (.key4, 4), (.key5, 5), (.key6, 6), (.key7, 7), (.key8, 8),
   (.key9, 9)]

/-- The key of a digit (rules R74, R76). -/
def digitKey (d : Fin 10) : Instr := decodeKey (BitVec.ofNat 4 d.val)

/-- The operator keys with their operators (rules R74, R77). -/
def operatorKeys : List (Instr × Op) := [(.keyAdd, .add), (.keySub, .sub), (.keyMul, .mul), (.keyDiv, .div)]

/-- The row selects with their rows (rule R72). -/
def rowSelects : List (Instr × BitVec 2) := [(.rowSel0, 0), (.rowSel1, 1), (.rowSel2, 2), (.rowSel3, 3)]

/-- The display commands with their codes under `cfg` (rules R6, R81). -/
def displayCommands (cfg : Config) : List (Instr × Byte) :=
  [(.lcdFuncset, cfg.cmdFuncset), (.lcdDispon, cfg.cmdDispon), (.lcdClear, cfg.cmdClear), (.lcdEntry, cfg.cmdEntry)]

/-- The instructions that are one bus write `(rs, v)` under `cfg`: the four commands and the data write (rules R101,
R102, R106 to R109). -/
def writesWord (cfg : Config) (i : Instr) (w : LcdWrite) : Prop :=
  (w.rs = false ∧ (i, w.byte) ∈ displayCommands cfg) ∨ (w.rs = true ∧ i = .lcdData w.byte)

/-- The sixteen keys. -/
def keyList : List Instr := keyInstrs.toList

/-- The echo of a digit sequence (rule R78). -/
def digitEchoes (cfg : Config) (ds : List (Fin 10)) : List LcdWrite := ds.map fun d => ⟨true, cfg.code (.digit d)⟩

/-- The Calculator State `(op1, op2, pend)` (rule R10 (c)). -/
structure Calc where
  op1  : Int
  op2  : Int
  pend : Option Op
deriving DecidableEq, Repr

/-- The Calculator State of a state. -/
def State.calcState (s : State) : Calc := ⟨s.op1, s.op2, s.pend⟩

/-- `(0, 0, none)`. -/
def Calc.zero : Calc := ⟨0, 0, none⟩

/-- One row of the table of rule R186: the Calculator State after, and the display writes in order. -/
structure Effect where
  after  : Calc
  writes : List LcdWrite
deriving DecidableEq, Repr

/-- The character code of an operator, `chr(op)` (rule R163). -/
def opChr : Op → Byte
  | .add => 0x2B
  | .sub => 0x2D
  | .mul => 0x2A
  | .div => 0x2F

/-- `DecStr(v)` in ASCII (rule R181): each digit `q` as `0x30 + q`, the minus sign as 0x2D. -/
def decText (v : Int) : List Byte :=
  (if v < 0 then [0x2D] else []) ++ (decDigits v.natAbs v.natAbs).map fun q => 0x30#8 + BitVec.ofNat 8 q.val

/-- The whole of `apply` as the table of rule R186, at ASCII characters, the clear command 0x01 and `OVF_MODE` = `wrap`. -/
def applyTable (cfg : Config) (k : BitVec 4) (c : Calc) : Effect :=
  match classOf k, c.pend with
  | .digit, none   => ⟨⟨wrapW cfg (10 * c.op1 + k.toNat), c.op2, none⟩, [⟨true, 0x30#8 + k.zeroExtend 8⟩]⟩
  | .digit, some o => ⟨⟨c.op1, wrapW cfg (10 * c.op2 + k.toNat), some o⟩, [⟨true, 0x30#8 + k.zeroExtend 8⟩]⟩
  | .operator, _   =>
    ⟨⟨c.op1, c.op2, some (opOfBits (k.extractLsb' 0 2))⟩, [⟨true, opChr (opOfBits (k.extractLsb' 0 2))⟩]⟩
  | .clear, _      => ⟨Calc.zero, [⟨false, 0x01⟩]⟩
  | .equals, none  => ⟨c, []⟩
  | .equals, some o =>
    if o = .div ∧ c.op2 = 0 then ⟨Calc.zero, [⟨true, 0x45⟩, ⟨true, 0x72⟩, ⟨true, 0x72⟩]⟩
    else
      ⟨Calc.zero, ⟨false, 0x01⟩ :: (decText (wrapW cfg (mathResult o c.op1 c.op2))).map fun b => ⟨true, b⟩⟩

/-- The parameters at which `applyTable` speaks: ASCII, clear 0x01, wrap (rules R81, R82, R172). -/
def tabled (cfg : Config) : Prop := cfg.chr = asciiCodes ∧ cfg.cmdClear = 0x01 ∧ cfg.ovf = .wrap

/-- The decimal value of a digit sequence, read left to right (rule R184). -/
def digitsValue (ds : List (Fin 10)) : Int := ds.foldl (fun acc d => acc * 10 + d.val) 0

/-- One more digit of a number being read; another character ends the reading. -/
def readDigit (acc : Option Int) (g : Glyph) : Option Int :=
  match acc, g with
  | some n, .digit d => some (n * 10 + d.val)
  | _, _ => none

/-- The integer that a rendered result shows (rule R181): an optional minus sign, then digits. -/
def readDecimal : List Glyph → Option Int
  | .minus :: rest => (rest.foldl readDigit (some 0)).map fun n => -n
  | text           => text.foldl readDigit (some 0)

/-- A display write the spec lets KPCALC emit: one of the four commands, or one of the sixteen characters (rules R81 to
R83). -/
def legalWrite (cfg : Config) (w : LcdWrite) : Prop :=
  if w.rs then w.byte ∈ cfg.chr.toList
  else w.byte ∈ [cfg.cmdFuncset, cfg.cmdDispon, cfg.cmdClear, cfg.cmdEntry]

/-- The phases a phase may lead to (rule R191, the column "leaves to"). -/
def phaseSuccessors : Phase → List Phase
  | .boot     => [.drive]
  | .drive    => [.stab]
  | .stab     => [.sample]
  | .sample   => [.hold, .drive]
  | .hold     => [.settle]
  | .settle   => [.dispatch]
  | .dispatch => [.drive]

/-! ### The invariant -/

/-- What holds at reset and at every edge after it. -/
structure Inv (s : State) : Prop where
  /-- `W` is at least 8 (D2) -/
  width       : 8 ≤ s.cfg.w
  /-- R20, R171: the operands are `W`-bit values -/
  op1Range    : inRange s.cfg s.op1
  op2Range    : inRange s.cfg s.op2
  /-- R23 -/
  op2Zero     : s.pend = none → s.op2 = 0
  /-- R37 -/
  writeOnly   : s.lcdRw = false
  /-- R38, R100, R113: the enable line is 1 in `L_PULSE` and only there -/
  strobe      : s.lcdE = true ↔ s.lph = .pulse
  /-- R100, R113: a transaction runs only in `PH_BOOT` and `PH_DISPATCH`, and the bus lines hold its write,
  the front of `txq` (log entry 11) -/
  busPhase    : s.lph ≠ .idle → s.ph = .boot ∨ s.ph = .dispatch
  busLines    : s.lph ≠ .idle → s.txq.head? = some ⟨s.lcdRs, s.lcdD⟩
  /-- R135, R185: a delivered key event is applied at the start of `PH_DISPATCH` (log entry 10) -/
  keyEvent    : s.kev = true → s.ph = .dispatch ∧ s.txq = [] ∧ s.lph = .idle
  /-- R110, R43: during boot the queue holds the commands not yet performed (log entry 11) -/
  bootQueue   : s.ph = .boot → s.txq = (initCommands s.cfg).drop s.bootI.toNat
  /-- R32 -/
  queueEmpty  : s.ph ≠ .boot → s.ph ≠ .dispatch → s.txq = []
  /-- R81 to R83 -/
  queueLegal  : ∀ w ∈ s.txq, legalWrite s.cfg w
  /-- R81 to R83: nothing else was ever emitted -/
  traceLegal  : ∀ w ∈ s.trace, legalWrite s.cfg w
  /-- R72: no pattern with two or more 0 bits is ever driven -/
  rowLegal    : s.rowPins = 0b1111 ∨ ∃ r, s.rowPins = rowPattern r
  /-- R192, R140: no row is driven low during boot -/
  rowBoot     : s.ph = .boot → s.rowPins = 0b1111
  /-- R27, R52: the row sampled is the row driven -/
  rowDriven   : s.ph ≠ .boot → s.ph ≠ .drive → s.rowPins = rowPattern s.row
  /-- R28, R130, R131, R140: the latch holds a position of the row still driven, and its key -/
  latch       : s.ph = .hold ∨ s.ph = .settle ∨ s.ph = .dispatch →
                  posRow s.kpos = s.row ∧ s.kcode = keyAt s.cfg s.kpos
  /-- R29: the delay counter does not run outside a delay -/
  delayIdle   : s.lph = .idle → s.ph ≠ .stab → s.ph ≠ .settle → (s.ph = .boot → s.bootI ≠ 0) → s.dly = 0

end Sys2Proof.Machine
end

