-- ==== Sys2Proof/Certificates/Slice0/Obligations.lean ====
section
/-! DEFINITION. The statements for the provers, from the numbered rules of the spec. Each says what an instruction, an
operation or the whole machine does. None is about a program. -/

open Sys2Proof Sys2Proof.Machine

/-! ### Encoding -/

/-- R72, R74, R80, R81, R102: decoding the word of any instruction, in its format, gives that instruction, with every
byte as the character of a data write; the four command codes must differ, as the reference codes do. -/
def Obligations.DecodeEncodeAgree : Prop :=
  ∀ (cfg : Config) (i : Instr), cfg.commandsDistinct = true → decode cfg (encode cfg i) = .ok i

/-- R72, R74, R80, R81: an accepted word is the word of the instruction it decodes to, so each instruction has one word
in its format and no bit of it is ignored. -/
def Obligations.EncodeDecodeAgree : Prop :=
  ∀ (cfg : Config) (c : CodeWord) (i : Instr), decode cfg c = .ok i → encode cfg i = c

/-- R72, R74, R81, R82: words written out from the tables of the spec, at the reference codes. -/
def Obligations.SpecWordsDecode : Prop :=
  decode Config.reference (.key 0b0111#4) = .ok .key7 ∧
  decode Config.reference (.key 0b1010#4) = .ok .keyClr ∧
  decode Config.reference (.key 0b1110#4) = .ok .keyMul ∧
  decode Config.reference (.rowsel 0b1110#4) = .ok .rowSel0 ∧
  decode Config.reference (.rowsel 0b0111#4) = .ok .rowSel3 ∧
  decode Config.reference (.lcdw 0b0000111000#10) = .ok .lcdFuncset ∧
  decode Config.reference (.lcdw 0b0000000001#10) = .ok .lcdClear ∧
  decode Config.reference (.lcdw 0b1000110111#10) = .ok (.lcdData 0x37#8)

/-- R83: the words KPCALC never uses are rejected by name: the eleven other row patterns among them the idle one and
those with two low rows, LCDW words with `RW` = 1, and commands other than the four. -/
def Obligations.UnusedWordsRejected : Prop :=
  (∀ p : BitVec 4, (∀ r, p ≠ rowPattern r) → ∀ cfg, decode cfg (.rowsel p) = .error .rowPattern) ∧
  (∀ (cfg : Config) (w : BitVec 10), w.getLsbD 8 = true → decode cfg (.lcdw w) = .error .readWord) ∧
  (∀ (cfg : Config) (d : Byte), d ∉ [cfg.cmdFuncset, cfg.cmdDispon, cfg.cmdClear, cfg.cmdEntry] →
    decode cfg (.lcdw (lcdWord ⟨false, d⟩)) = .error .otherCommand)

/-- R75: the class of a key code, with the spec's second form of the digit test; exactly one class holds. -/
def Obligations.KeyClassesPartition : Prop :=
  ∀ k : BitVec 4,
    (classOf k = .digit ↔ k ≤ 9#4) ∧
    (k ≤ 9#4 ↔ k.getLsbD 3 = false ∨ k.extractLsb' 1 3 = 0b100#3) ∧
    (classOf k = .clear ↔ k = 0xA#4) ∧
    (classOf k = .equals ↔ k = 0xB#4) ∧
    (classOf k = .operator ↔ k.extractLsb' 2 2 = 0b11#2) ∧
    [decide (k ≤ 9#4), decide (k = 0xA#4), decide (k = 0xB#4), decide (k.extractLsb' 2 2 = 0b11#2)].count true = 1

/-- R74, R76, R77: the operand of a key is read from its code: a digit key's value is the whole code, an operator key's
operator its two low bits. -/
def Obligations.KeyOperandsFromCode : Prop :=
  (∀ (k : BitVec 4) (h : k.toNat < 10), (decodeKey k, (⟨k.toNat, h⟩ : Fin 10)) ∈ digitKeys) ∧
  (∀ k : BitVec 4, classOf k = .operator → (decodeKey k, opOfBits (k.extractLsb' 0 2)) ∈ operatorKeys) ∧
  (∀ k : BitVec 4, classOf k = .clear → decodeKey k = .keyClr) ∧
  (∀ k : BitVec 4, classOf k = .equals → decodeKey k = .keyEq)

/-- R73: the priority decoding of a column sample: nothing is found exactly in 0b1111; otherwise the column found is the
least one that reads 0, whatever the columns above it read. -/
def Obligations.ColumnPriorityDecode : Prop :=
  ∀ s : BitVec 4,
    (firstLow s = none ↔ s = 0b1111#4) ∧
    ∀ c : BitVec 2, firstLow s = some c ↔
      s.getLsbD c.toNat = false ∧ ∀ i : BitVec 2, i < c → s.getLsbD i.toNat = true

/-- R71: `p = {r, c} = 4r + c`, and increasing `p` is row-major order. -/
def Obligations.PositionIsRowMajor : Prop :=
  ∀ r c r' c' : BitVec 2,
    (posOf r c).toNat = 4 * r.toNat + c.toNat ∧
    posRow (posOf r c) = r ∧ posCol (posOf r c) = c ∧
    (posOf r c < posOf r' c' ↔ r < r' ∨ (r = r' ∧ c < c'))

/-- R87 (and R83 for the three codes that are never produced): the bits of the pending operator, and the two registers
`pend_v`, `pend_op` as a state shows them. -/
def Obligations.PendingOperatorBits : Prop :=
  pendBits none = 0b000#3 ∧ pendBits (some .add) = 0b100#3 ∧ pendBits (some .sub) = 0b101#3 ∧
  pendBits (some .mul) = 0b110#3 ∧ pendBits (some .div) = 0b111#3 ∧
  (∀ p, pendOfBits (pendBits p) = p) ∧
  (∀ b : BitVec 3, b.getLsbD 2 = false → pendOfBits b = none) ∧
  (∀ s : State, pendBits s.pend = BitVec.ofBool s.pendV ++ s.pendOp)

/-! ### Arithmetic and rendering -/

/-- R9: `wrap_W(v)` is the one value of the `W`-bit signed range that is congruent to `v` modulo `2^W`; a value already
in the range is unchanged. -/
def Obligations.WrapIsTheRepresentative : Prop :=
  ∀ (cfg : Config) (v r : Int), 1 ≤ cfg.w →
    (r = wrapW cfg v ↔ inRange cfg r ∧ (2 ^ cfg.w : Int) ∣ v - r)

/-- R170, R172 to R175, R178: under wrap, Compute answers for all operands the wrapped mathematical result; a result that
fits is exact, and the most negative value divided by minus one wraps to itself. -/
def Obligations.ComputeWraps : Prop :=
  ∀ (cfg : Config) (a b : Int), cfg.ovf = .wrap → 1 ≤ cfg.w →
    compute cfg .add a b = .ok (wrapW cfg (a + b)) ∧
    compute cfg .sub a b = .ok (wrapW cfg (a - b)) ∧
    compute cfg .mul a b = .ok (wrapW cfg (a * b)) ∧
    compute cfg .div a b = .ok (wrapW cfg (tdiv a b)) ∧
    (∀ op, inRange cfg (mathResult op a b) → compute cfg op a b = .ok (mathResult op a b)) ∧
    compute cfg .div (-(2 ^ (cfg.w - 1))) (-1) = .ok (-(2 ^ (cfg.w - 1)))

/-- R176: the quotient is rounded toward zero: its magnitude is the floor of the quotient of the magnitudes, it is
negative exactly when the operands have opposite signs and the magnitude is not zero, and the remainder it discards has
the sign of the dividend and is smaller than the divisor; with the rule's examples. -/
def Obligations.DivisionTruncates : Prop :=
  (∀ a b : Int, b ≠ 0 →
    (tdiv a b).natAbs = a.natAbs / b.natAbs ∧
    (tdiv a b < 0 ↔ ((a < 0 ∧ 0 < b) ∨ (0 < a ∧ b < 0)) ∧ a.natAbs / b.natAbs ≠ 0) ∧
    (∃ r : Int, a = tdiv a b * b + r ∧ r.natAbs < b.natAbs ∧ (0 ≤ a → 0 ≤ r) ∧ (a ≤ 0 → r ≤ 0)) ∧
    ∀ cfg : Config, cfg.ovf = .wrap → compute cfg .div a b = .ok (wrapW cfg (tdiv a b))) ∧
  tdiv 7 2 = 3 ∧ tdiv (-7) 2 = -3 ∧ tdiv 7 (-2) = -3 ∧ tdiv (-7) (-2) = 3 ∧ tdiv 1 2 = 0 ∧ tdiv (-1) 2 = 0 ∧
  tdiv 0 5 = 0 ∧ tdiv 5 5 = 1 ∧ tdiv 5 1 = 5

/-- R181: what a result is rendered as reads back as that result; the minus sign stands in front exactly for negative
values; the first digit is 0 only for the single character `0`. -/
def Obligations.RenderingReadsBack : Prop :=
  ∀ v : Int,
    readDecimal (decGlyphs v) = some v ∧
    (decGlyphs v).count .minus = (if v < 0 then 1 else 0) ∧
    ((decGlyphs v).head? = some .minus ↔ v < 0) ∧
    ((decGlyphs v).find? (fun g => decide (g ≠ .minus)) = some (.digit 0) ↔ v = 0) ∧
    (v = 0 → decGlyphs v = [.digit 0])

/-- R181, R32: the length of a rendered `W`-bit value is at most `1 + ceil((W-1) * log10 2)` characters, so the queue of
a key event on an empty queue holds at most one entry more. -/
def Obligations.RenderedLengthBound : Prop :=
  ∀ (cfg : Config) (v : Int), 2 ≤ cfg.w → inRange cfg v →
    (decGlyphs v).length ≤ 1 + Nat.clog 10 (2 ^ (cfg.w - 1)) ∧
    (displayNumber cfg v).length ≤ 2 + Nat.clog 10 (2 ^ (cfg.w - 1))

/-! ### Digit keys -/

/-- R152 to R162, under `OVF_MODE` = wrap: each digit key completes in every state: `x*10 + d`, wrapped, goes into the
first operand with no operator pending and into the second otherwise, one data write of the digit's character is
queued, and nothing else of the state changes. The echo is `0x30 + d` under the ASCII table. -/
def Obligations.DigitKeysAccumulate : Prop :=
  ∀ p ∈ digitKeys, ∀ s : State, s.cfg.ovf = .wrap →
    (s.pend = none → exec p.1 s = .next { s with
      op1 := wrapW s.cfg (s.op1 * 10 + p.2.val), txq := s.txq ++ [⟨true, s.cfg.code (.digit p.2)⟩] }) ∧
    (∀ op, s.pend = some op → exec p.1 s = .next { s with
      op2 := wrapW s.cfg (s.op2 * 10 + p.2.val), txq := s.txq ++ [⟨true, s.cfg.code (.digit p.2)⟩] }) ∧
    (s.cfg.chr = asciiCodes → s.cfg.code (.digit p.2) = 0x30#8 + BitVec.ofNat 8 p.2.val) ∧
    encode s.cfg p.1 = .key (BitVec.ofNat 4 p.2.val)

/-- R172, U1, under `OVF_MODE` = fault: a digit key completes with the exact value when it fits, and faults exactly when
it does not. -/
def Obligations.DigitKeysUnderFaultMode : Prop :=
  ∀ p ∈ digitKeys, ∀ s : State, s.cfg.ovf = .fault →
    (s.pend = none → inRange s.cfg (s.op1 * 10 + p.2.val) → exec p.1 s = .next { s with
      op1 := s.op1 * 10 + p.2.val, txq := s.txq ++ [⟨true, s.cfg.code (.digit p.2)⟩] }) ∧
    (s.pend = none → ¬ inRange s.cfg (s.op1 * 10 + p.2.val) → exec p.1 s = .fault .overflow) ∧
    (∀ op, s.pend = some op → inRange s.cfg (s.op2 * 10 + p.2.val) → exec p.1 s = .next { s with
      op2 := s.op2 * 10 + p.2.val, txq := s.txq ++ [⟨true, s.cfg.code (.digit p.2)⟩] }) ∧
    (∀ op, s.pend = some op → ¬ inRange s.cfg (s.op2 * 10 + p.2.val) → exec p.1 s = .fault .overflow)

/-- R184: from an operand 0, a digit sequence leaves the wrapped value of its positional reading in the operand it
accumulates into, equal to that value when it is a safe one; the same for the second operand when an operator is
pending. -/
def Obligations.DigitsReadPositionally : Prop :=
  ∀ (ds : List (Fin 10)) (s : State), s.cfg.ovf = .wrap → 1 ≤ s.cfg.w →
    digitsValue ds = ((List.range ds.length).map fun i => (ds.getD i 0).val * 10 ^ (ds.length - 1 - i)).sum ∧
    (digitsValue ds < 2 ^ (s.cfg.w - 1) → wrapW s.cfg (digitsValue ds) = digitsValue ds) ∧
    (s.pend = none → s.op1 = 0 → execAll (ds.map digitKey) s = .next { s with
      op1 := wrapW s.cfg (digitsValue ds), txq := s.txq ++ digitEchoes s.cfg ds }) ∧
    (∀ op, s.pend = some op → s.op2 = 0 → execAll (ds.map digitKey) s = .next { s with
      op2 := wrapW s.cfg (digitsValue ds), txq := s.txq ++ digitEchoes s.cfg ds })

/-! ### Operator keys, Clear, Equals -/

/-- R163 to R167: each operator key completes in every state, with either `OVF_MODE` and whatever was pending: its
operator becomes pending, its character is queued as one data write, and nothing else changes. -/
def Obligations.OperatorKeysReplacePending : Prop :=
  ∀ p ∈ operatorKeys, ∀ s : State,
    exec p.1 s = .next { s with pend := some p.2, txq := s.txq ++ [⟨true, s.cfg.code (opGlyph p.2)⟩] } ∧
    (s.cfg.chr = asciiCodes → s.cfg.code (opGlyph p.2) = opChr p.2) ∧
    encode s.cfg p.1 = .key (0b11#2 ++ opBits p.2)

/-- R183: a second operator replaces the first without evaluating it: after two operator keys, with digits typed between
them, the second operator is pending over the same operands, and digits typed after it go on extending `op2`. -/
def Obligations.SecondOperatorReplacesFirst : Prop :=
  ∀ p ∈ operatorKeys, ∀ q ∈ operatorKeys, ∀ (ds es : List (Fin 10)) (s : State),
    s.cfg.ovf = .wrap → 1 ≤ s.cfg.w → s.op2 = 0 →
      execAll ([p.1] ++ ds.map digitKey ++ [q.1] ++ es.map digitKey) s = .next { s with
        op2 := wrapW s.cfg (digitsValue (ds ++ es)), pend := some q.2,
        txq := s.txq ++ ([⟨true, s.cfg.code (opGlyph p.2)⟩] ++ digitEchoes s.cfg ds ++
          [⟨true, s.cfg.code (opGlyph q.2)⟩] ++ digitEchoes s.cfg es) }

/-- R168: Clear completes in every state: the Calculator State becomes `(0, 0, none)`, one clear command is queued, no
data write is, and nothing else changes. -/
def Obligations.ClearKeyResets : Prop :=
  ∀ s : State,
    exec .keyClr s = .next { s with op1 := 0, op2 := 0, pend := none, txq := s.txq ++ [⟨false, s.cfg.cmdClear⟩] } ∧
    encode s.cfg .keyClr = .key 0xA#4

/-- R169 (a), R205: Equals with no operator pending changes nothing at all, whatever the operands. -/
def Obligations.EqualsWithNothingPendingIsNoOp : Prop :=
  ∀ s : State, s.pend = none → exec .keyEq s = .next s

/-- R169, R170, under wrap: Equals with an operator pending and no zero divisor completes: the clear command and then the
decimal string of the wrapped result are queued, the Calculator State is reset, and nothing else changes. -/
def Obligations.EqualsShowsResult : Prop :=
  ∀ (s : State) (op : Op), s.cfg.ovf = .wrap → s.pend = some op → ¬ (op = .div ∧ s.op2 = 0) →
    exec .keyEq s = .next { s with
      op1 := 0, op2 := 0, pend := none,
      txq := s.txq ++ (⟨false, s.cfg.cmdClear⟩ ::
        (decGlyphs (wrapW s.cfg (mathResult op s.op1 s.op2))).map fun g => ⟨true, s.cfg.code g⟩) }

/-- R177, R201, R202, R203: Equals with DIV pending and a zero second operand, whatever the first operand (0 included) and
either `OVF_MODE`, takes DivideByZero: exactly `E`, `r`, `r` are queued with no clear command, nothing is computed, and
the Calculator State is reset as on the normal path; nothing else changes. -/
def Obligations.EqualsDivideByZero : Prop :=
  ∀ s : State, s.pend = some .div → s.op2 = 0 →
    exec .keyEq s = .next { s with
      op1 := 0, op2 := 0, pend := none,
      txq := s.txq ++ [⟨true, s.cfg.code .letterE⟩, ⟨true, s.cfg.code .letterR⟩, ⟨true, s.cfg.code .letterR⟩] } ∧
    (s.cfg.chr = asciiCodes → s.cfg.code .letterE = 0x45#8 ∧ s.cfg.code .letterR = 0x72#8)

/-- R172, U1, U2, under `OVF_MODE` = fault: Equals shows the exact result when it fits and faults exactly when it does
not; -2^(W-1) / -1 is such a fault. -/
def Obligations.EqualsUnderFaultMode : Prop :=
  ∀ (s : State) (op : Op), s.cfg.ovf = .fault → s.pend = some op → ¬ (op = .div ∧ s.op2 = 0) →
    (inRange s.cfg (mathResult op s.op1 s.op2) → exec .keyEq s = .next { s with
      op1 := 0, op2 := 0, pend := none,
      txq := s.txq ++ (⟨false, s.cfg.cmdClear⟩ ::
        (decGlyphs (mathResult op s.op1 s.op2)).map fun g => ⟨true, s.cfg.code g⟩) }) ∧
    (¬ inRange s.cfg (mathResult op s.op1 s.op2) → exec .keyEq s = .fault .overflow) ∧
    (op = .div → s.op1 = -(2 ^ (s.cfg.w - 1)) → s.op2 = -1 → exec .keyEq s = .fault .overflow)

/-- R184, R170, R173 to R176: from `(0, 0, none)`, the digits of `a`, an operator, the digits of `b` and Equals leave
`(0, 0, none)` and queue the echoes and then the result of the operation on the two wrapped operands. -/
def Obligations.CalculationShowsItsResult : Prop :=
  ∀ p ∈ operatorKeys, ∀ (da db : List (Fin 10)) (s : State),
    s.cfg.ovf = .wrap → 1 ≤ s.cfg.w → s.calcState = Calc.zero →
    ¬ (p.2 = .div ∧ wrapW s.cfg (digitsValue db) = 0) →
      execAll (da.map digitKey ++ [p.1] ++ db.map digitKey ++ [.keyEq]) s = .next { s with
        txq := s.txq ++ (digitEchoes s.cfg da ++ [⟨true, s.cfg.code (opGlyph p.2)⟩] ++ digitEchoes s.cfg db ++
          ⟨false, s.cfg.cmdClear⟩ ::
            (decGlyphs (wrapW s.cfg (mathResult p.2 (wrapW s.cfg (digitsValue da)) (wrapW s.cfg (digitsValue db))))).map
              fun g => ⟨true, s.cfg.code g⟩) }

/-- R186: the whole of `apply`, for each of the sixteen key codes in every state, is the spec's table. -/
def Obligations.KeysFollowTheTable : Prop :=
  ∀ (s : State) (k : BitVec 4), tabled s.cfg →
    exec (decodeKey k) s = .next { s with
      op1 := (applyTable s.cfg k s.calcState).after.op1, op2 := (applyTable s.cfg k s.calcState).after.op2,
      pend := (applyTable s.cfg k s.calcState).after.pend,
      txq := s.txq ++ (applyTable s.cfg k s.calcState).writes }

/-- R150, R24: the frame of the sixteen keys: a key event writes the Calculator State and appends to `txq`, nothing else;
and what it writes depends on the Calculator State and the parameters alone. -/
def Obligations.KeyFrame : Prop :=
  ∀ i ∈ keyList, ∀ s t : State, exec i s = .next t →
    (∃ ws, t = { s with op1 := t.op1, op2 := t.op2, pend := t.pend, txq := s.txq ++ ws }) ∧
    ∀ s' : State, s'.cfg = s.cfg → s'.calcState = s.calcState →
      ∃ t', exec i s' = .next t' ∧ t'.calcState = t.calcState ∧
        t'.txq.drop s'.txq.length = t.txq.drop s.txq.length

/-- R182, R108: no instruction but Clear, and Equals when it shows a result, queues a clear command. -/
def Obligations.OnlyClearAndResultsClear : Prop :=
  ∀ (i : Instr) (s t : State), exec i s = .next t →
    (⟨false, s.cfg.cmdClear⟩ : LcdWrite) ∈ t.txq.drop s.txq.length →
      i = .keyClr ∨ (i = .keyEq ∧ ∃ op, s.pend = some op ∧ ¬ (op = .div ∧ s.op2 = 0))

/-! ### Row selects and the matrix -/

/-- R121 to R124, R72: each row select completes in every state: `row` and the row lines take its row and pattern, the
pattern joins the sequence of driven values, and nothing else changes; its word is the pattern. -/
def Obligations.RowSelectsDrive : Prop :=
  ∀ p ∈ rowSelects, ∀ s : State,
    exec p.1 s = .next { s with
      row := p.2, rowPins := ~~~(0b0001#4 <<< p.2.toNat), rowTrace := s.rowTrace ++ [~~~(0b0001#4 <<< p.2.toNat)] } ∧
    encode s.cfg p.1 = .rowsel (~~~(0b0001#4 <<< p.2.toNat))

/-- R72: the four patterns, each with row `r` low and all others high; and no other pattern is ever driven: an edge
leaves the row lines as they are, at a pattern, or, in reset, at 0b1111. -/
def Obligations.RowLinesTakeFiveValues : Prop :=
  rowPattern 0 = 0b1110#4 ∧ rowPattern 1 = 0b1101#4 ∧ rowPattern 2 = 0b1011#4 ∧ rowPattern 3 = 0b0111#4 ∧
  (∀ (r : BitVec 2) (j : Fin 4), (rowPattern r).getLsbD j.val = false ↔ j.val = r.toNat) ∧
  ∀ s t : State, step s = .next t →
    t.rowPins = s.rowPins ∨ (∃ r, t.rowPins = rowPattern r) ∨
    (t.rowPins = 0b1111#4 ∧ ∃ rest, s.rstSched = false :: rest)

/-- R51, R52: with row `r` driven, column `c` reads 0 exactly when the switch at (r, c) is closed; switches in other rows
do not matter. And every 4-bit answer can be had from some matrix (R65). -/
def Obligations.ColumnsReadDrivenRow : Prop :=
  (∀ (r c : BitVec 2) (m : BitVec 16),
    (colLines (rowPattern r) m).getLsbD c.toNat = !(m.getLsbD (4 * r.toNat + c.toNat))) ∧
  ∀ (r : BitVec 2) (v : BitVec 4), ∃ m : BitVec 16, colLines (rowPattern r) m = v

/-! ### The display bus -/

/-- R100 with R101, R102, R106 to R109: each of the five display instructions completes at every point of its
transaction; what each clock edge does, by the phase `lph`. -/
def Obligations.DisplayInstructionEdges : Prop :=
  ∀ (i : Instr) (w : LcdWrite) (s : State), writesWord s.cfg i w →
    (s.lph = .idle → exec i s = .next { s with
      lcdRs := w.rs, lcdRw := false, lcdD := w.byte, lph := .setup, dly := s.cfg.tES * s.cfg.tuCycles }) ∧
    (s.lph = .setup → s.dly ≤ 1 → exec i s = .next { s with
      lcdE := true, lph := .pulse, dly := s.cfg.tEW * s.cfg.tuCycles }) ∧
    (s.lph = .pulse → s.dly ≤ 1 → exec i s = .next { s with
      lcdE := false, trace := s.trace ++ [w], lph := .hold, dly := s.cfg.tEH * s.cfg.tuCycles }) ∧
    (s.lph = .hold → s.dly ≤ 1 → exec i s = .next { s with lph := .idle, dly := 0 }) ∧
    (s.lph ≠ .idle → 2 ≤ s.dly → exec i s = .next { s with dly := s.dly - 1 })

/-- R100, R101, R102, R106 to R109: a whole transaction, from idle to idle: the lines hold the word, the enable line is
back at 0, the display trace has gained exactly that word, and nothing else changed. -/
def Obligations.DisplayTransactionCompletes : Prop :=
  ∀ (i : Instr) (w : LcdWrite) (s : State), writesWord s.cfg i w → s.lph = .idle →
    execTimes (lcdEdges s.cfg) i s = .next { s with
      lcdRs := w.rs, lcdRw := false, lcdD := w.byte, lcdE := false, dly := 0, trace := s.trace ++ [w] }

/-- R100, R113, R59: from the start of `L_SETUP` to the end of `L_HOLD` the bus lines do not change, in whatever phase
the sequencer is; between transactions they change only where a transaction starts. -/
def Obligations.BusLinesStable : Prop :=
  ∀ s t : State, Inv s → s.rstSched = [] → step s = .next t →
    (s.lph ≠ .idle → t.lcdRs = s.lcdRs ∧ t.lcdRw = s.lcdRw ∧ t.lcdD = s.lcdD) ∧
    (s.lph = .idle → t.lph = .idle → t.lcdRs = s.lcdRs ∧ t.lcdRw = s.lcdRw ∧ t.lcdD = s.lcdD ∧ t.lcdE = s.lcdE)

/-- R100, R62, R10 (a): the display trace grows exactly at the falling edge of the enable line, by exactly the word on
the bus lines; nothing is dropped, merged or reordered. -/
def Obligations.TraceGrowsAtFallingEdge : Prop :=
  ∀ s t : State, Inv s → s.rstSched = [] → step s = .next t →
    (t.trace = s.trace ∧ ¬ (s.lcdE = true ∧ t.lcdE = false)) ∨
    (t.trace = s.trace ++ [⟨s.lcdRs, s.lcdD⟩] ∧ s.lcdE = true ∧ t.lcdE = false)

/-- R111: the shown text over the display trace: undefined at reset; a clear command empties and defines it; another
command leaves it; a character is appended while it is defined and fits the visible line, and makes it undefined when
it no longer fits; a character on an undefined text leaves it undefined. -/
def Obligations.ShownTextRules : Prop :=
  ∀ (cfg : Config) (tr : List LcdWrite),
    shownText cfg [] = none ∧
    shownText cfg (tr ++ [⟨false, cfg.cmdClear⟩]) = some [] ∧
    (∀ c, c ≠ cfg.cmdClear → shownText cfg (tr ++ [⟨false, c⟩]) = shownText cfg tr) ∧
    (∀ ch text, shownText cfg tr = some text → (text ++ [ch]).length ≤ cfg.lcdCols →
      shownText cfg (tr ++ [⟨true, ch⟩]) = some (text ++ [ch])) ∧
    (∀ ch text, shownText cfg tr = some text → cfg.lcdCols < (text ++ [ch]).length →
      shownText cfg (tr ++ [⟨true, ch⟩]) = none) ∧
    (∀ ch, shownText cfg tr = none → shownText cfg (tr ++ [⟨true, ch⟩]) = none)

/-- R111, R112: after a clear command, the shown text is what was written since, exactly as long as it fits the visible
line; past it the text is undefined and stays so. -/
def Obligations.ShownTextSinceClear : Prop :=
  ∀ (cfg : Config) (tr : List LcdWrite) (text : List Byte),
    shownText cfg (tr ++ ⟨false, cfg.cmdClear⟩ :: text.map fun b => ⟨true, b⟩) =
      if text.length ≤ cfg.lcdCols then some text else none

/-! ### The sequencer -/

/-- R191, R195, R110: a clock edge with `rst_n` high runs the decoded instruction, with what the sequencer does around
it (`afterInstr`): in `PH_DISPATCH` the key of a delivered key event, then the word at the front of `txq`; in `PH_DRIVE`
the word of the row pattern; in `PH_BOOT` the initialisation command `boot_i`. And `withNext` places any instruction so
that the next edge runs it. -/
def Obligations.StepRunsDecodedInstruction : Prop :=
  (∀ (s : State) (i : Instr), s.rstSched = [] → s.ph = .dispatch → s.kev = true →
    decode s.cfg (.key s.kcode) = .ok i → step s = onNext (fun t => { t with kev := false }) (exec i s)) ∧
  (∀ (s : State) (i : Instr) (w : LcdWrite) (rest : List LcdWrite), s.rstSched = [] → s.ph = .dispatch →
    s.kev = false → s.txq = w :: rest → decode s.cfg (.lcdw (lcdWord w)) = .ok i →
      step s = onNext popDone (exec i s)) ∧
  (∀ (s : State) (i : Instr), s.rstSched = [] → s.ph = .drive → decode s.cfg (.rowsel (rowPattern s.row)) = .ok i →
    step s = onNext (fun t => { t with ph := .stab, dly := t.cfg.cycles t.cfg.tStab }) (exec i s)) ∧
  (∀ s : State, s.rstSched = [] → s.ph = .boot → ¬ (s.lph = .idle ∧ s.dly ≠ 0) →
    step s = onNext bootAdvance (exec (bootInstr s.bootI) s)) ∧
  (∀ (s : State) (rest : List Bool), s.rstSched = true :: rest →
    step s = onNext (fun t => { t with rstSched := rest }) (step { s with rstSched := [] })) ∧
  ∀ (s : State) (i : Instr), s.cfg.commandsDistinct = true →
    step (s.withNext i) = onNext afterInstr (exec i (s.withNext i))

/-- R191, R26: the phase after an edge is the same phase or one the table names, and code 7 is never entered. -/
def Obligations.PhasesFollowTheTable : Prop :=
  (∀ p, phaseCode p ≠ 7#3) ∧
  ∀ s t : State, s.rstSched = [] → step s = .next t → t.ph = s.ph ∨ t.ph ∈ phaseSuccessors s.ph

/-- R29, R209: a delay of `n` cycles holds the sequencer in its phase for `n` edges (one, where `n` is 0), counting down
once an edge, and changes nothing but the counter and the phase; after `PH_SETTLE` the key event is delivered. -/
def Obligations.DelaysTakeTheirCycles : Prop :=
  ∀ s : State, s.rstSched = [] →
    (s.ph = .stab → steps (max 1 s.dly) s = .next { s with ph := .sample, dly := 0 }) ∧
    (s.ph = .settle → steps (max 1 s.dly) s = .next { s with ph := .dispatch, kev := true, dly := 0 }) ∧
    (s.ph = .stab ∨ s.ph = .settle → 2 ≤ s.dly → step s = .next { s with dly := s.dly - 1 })

/-- R193: the transitions of the scan pass, by the sample alone; the sample is of the switches as the environment gives
them at that edge (`observeMatrix`: the next of its schedule, or a free matrix). -/
def Obligations.SampleTransitions : Prop :=
  ∀ s : State, s.rstSched = [] → s.ph = .sample →
    (∀ c, firstLow (observeMatrix s).col = some c → step s = .next { observeMatrix s with
      kpos := s.row ++ c, kcode := s.cfg.keymap.toList.getD (s.row ++ c).toNat 0, ph := .hold }) ∧
    ((observeMatrix s).col = 0b1111#4 → s.row < 3#2 → step s = .next { observeMatrix s with
      row := s.row + 1, ph := .drive }) ∧
    ((observeMatrix s).col = 0b1111#4 → s.row = 3#2 → step s = .next { observeMatrix s with
      row := 0, ph := .drive })

/-- R194, R131: the hold ends at the first sample whose bit of the key's column is 1, and only the counter, the phase and
the switches' record change; the settle delay ends in the delivery of the key event. There is no other way out. -/
def Obligations.HoldAndSettleTransitions : Prop :=
  ∀ s : State, s.rstSched = [] →
    (s.ph = .hold → (observeMatrix s).col.getLsbD (posCol s.kpos).toNat = true → step s = .next { observeMatrix s with
      ph := .settle, dly := s.cfg.tSettle * s.cfg.tuCycles }) ∧
    (s.ph = .hold → (observeMatrix s).col.getLsbD (posCol s.kpos).toNat = false → step s = .next (observeMatrix s)) ∧
    (s.ph = .settle → s.dly ≤ 1 → step s = .next { s with ph := .dispatch, kev := true, dly := 0 }) ∧
    (s.ph = .settle → 2 ≤ s.dly → step s = .next { s with dly := s.dly - 1 })

/-- R129, R120, R125: a pass in which no sample sees a closed switch drives and samples the four rows in order, takes
four stabilisation delays and nothing more, writes no latch, and is back at row 0. -/
def Obligations.ScanPassWithoutKey : Prop :=
  ∀ (s : State) (m0 m1 m2 m3 : BitVec 16) (rest : List (BitVec 16)),
    s.rstSched = [] → s.ph = .drive → s.row = 0 → s.keys = m0 :: m1 :: m2 :: m3 :: rest →
    matrixRow m0 0 = 0 → matrixRow m1 1 = 0 → matrixRow m2 2 = 0 → matrixRow m3 3 = 0 →
      steps (4 * (2 + delayEdges s.cfg s.cfg.tStab)) s = .next { s with
        dly := 0, rowPins := 0b0111#4, rowTrace := s.rowTrace ++ [0b1110#4, 0b1101#4, 0b1011#4, 0b0111#4],
        closed := m3, keys := rest }

/-- R127, R128, R130: a pass stops at the lowest-numbered row whose sample is not 0b1111 and reports the lowest-numbered
low column in it; the rows above are neither driven nor sampled; the key is the key map's entry of that position. -/
def Obligations.ScanPassFindsFirstKey : Prop :=
  ∀ (s : State) (ms rest : List (BitVec 16)) (m : BitVec 16) (c : BitVec 2),
    s.rstSched = [] → s.ph = .drive → s.row = 0 → ms.length ≤ 3 → s.keys = ms ++ m :: rest →
    (∀ i, i < ms.length → matrixRow (ms.getD i 0) i = 0) →
    firstLow (~~~matrixRow m ms.length) = some c →
      steps ((ms.length + 1) * (2 + delayEdges s.cfg s.cfg.tStab)) s = .next { s with
        row := BitVec.ofNat 2 ms.length, kpos := posOf (BitVec.ofNat 2 ms.length) c,
        kcode := keyAt s.cfg (posOf (BitVec.ofNat 2 ms.length) c), ph := .hold, dly := 0,
        rowPins := rowPattern (BitVec.ofNat 2 ms.length),
        rowTrace := s.rowTrace ++ (List.range (ms.length + 1)).map fun i => rowPattern (BitVec.ofNat 2 i),
        closed := m, keys := rest }

/-- R133, R131, R132, R135: the press step as one unit: from the sample that detects a key, through the hold, however
many samples it takes, to the end of the settle delay, the machine latches the key, delivers one key event and does
nothing else: no row is driven, no display write is made, no Calculator State changes. -/
def Obligations.PressStepIsAtomic : Prop :=
  ∀ (s : State) (c : BitVec 2) (m high : BitVec 16) (lows rest : List (BitVec 16)),
    s.rstSched = [] → s.ph = .sample → s.keys = m :: (lows ++ high :: rest) →
    firstLow (colLines s.rowPins m) = some c →
    (∀ x ∈ lows, (colLines s.rowPins x).getLsbD c.toNat = false) →
    (colLines s.rowPins high).getLsbD c.toNat = true →
      steps (1 + (lows.length + 1) + delayEdges s.cfg s.cfg.tSettle) s = .next { s with
        kpos := posOf s.row c, kcode := keyAt s.cfg (posOf s.row c), ph := .dispatch, kev := true, dly := 0,
        closed := high, keys := rest }

/-- R197, R239: while every sample reads the key's column low, the hold goes on and nothing but the samples happens. -/
def Obligations.HoldLastsWhileKeyIsDown : Prop :=
  ∀ (s : State) (ms rest : List (BitVec 16)), s.rstSched = [] → s.ph = .hold → s.keys = ms ++ rest →
    (∀ x ∈ ms, (colLines s.rowPins x).getLsbD (posCol s.kpos).toNat = false) →
      steps ms.length s = .next { s with closed := ms.getLast?.getD s.closed, keys := rest }

/-- R195, R186, R185, R62: a delivered key event, whole: the Calculator State takes the row of the spec's table, each
display write of the row is one transaction on the bus, in order, and the sequencer is back at `PH_DRIVE` with row 0
with the queue empty; the row lines, the latch and the switches are untouched. The length of the event depends on the
number of its writes and the delays alone. -/
def Obligations.KeyEventRunsToTheNextScan : Prop :=
  ∀ s : State, s.rstSched = [] → s.ph = .dispatch → s.kev = true → s.lph = .idle → s.txq = [] → tabled s.cfg →
    ∃ t, steps (2 + (applyTable s.cfg s.kcode s.calcState).writes.length * lcdEdges s.cfg) s = .next t ∧
      t.calcState = (applyTable s.cfg s.kcode s.calcState).after ∧
      t.trace = s.trace ++ (applyTable s.cfg s.kcode s.calcState).writes ∧
      t.ph = .drive ∧ t.row = 0 ∧ t.kev = false ∧ t.lph = .idle ∧ t.txq = [] ∧
      t.rowPins = s.rowPins ∧ t.rowTrace = s.rowTrace ∧ t.kpos = s.kpos ∧ t.kcode = s.kcode ∧
      t.closed = s.closed ∧ t.keys = s.keys ∧ t.draws = s.draws ∧ t.cfg = s.cfg ∧ t.rstSched = []

/-- R32, R62, R103, R195: the driver performs queued writes from the front, each as one whole transaction, in order, and
ends the dispatch when the queue is empty; here for any writes, a text among them, and any bytes. -/
def Obligations.QueuedWritesReachTheBusInOrder : Prop :=
  ∀ (s : State) (ws : List LcdWrite), s.rstSched = [] → s.ph = .dispatch → s.kev = false → s.lph = .idle →
    s.txq = ws →
      ∃ t, steps (ws.length * lcdEdges s.cfg + 1) s = .next t ∧
        t.trace = s.trace ++ ws ∧ t.txq = [] ∧ t.ph = .drive ∧ t.row = 0 ∧ t.lph = .idle ∧
        t.calcState = s.calcState ∧ t.rowPins = s.rowPins ∧ t.rowTrace = s.rowTrace ∧ t.keys = s.keys ∧
        (∀ w, ws.getLast? = some w → t.lcdRs = w.rs ∧ t.lcdD = w.byte ∧ t.lcdE = false ∧ t.lcdRw = false)

/-- R136, R190, R120 to R135, R195: one physical press gives exactly one key event, however long the hold. From the
start of a scan pass with nothing in progress: the rows before the pressed one read open, the press is seen in its row,
the key's column reads low for any number of samples and then high once; the machine applies the one key of that
position, performs its display writes, and is back at the start of a scan pass with the rest of the schedule unseen. -/
def Obligations.OnePressGivesOneKeyEvent : Prop :=
  ∀ (s : State) (ms lows rest : List (BitVec 16)) (m high : BitVec 16) (c : BitVec 2),
    s.rstSched = [] → s.ph = .drive → s.row = 0 → s.lph = .idle → s.txq = [] → s.kev = false → tabled s.cfg →
    s.keys = ms ++ m :: (lows ++ high :: rest) → ms.length ≤ 3 →
    (∀ i, i < ms.length → matrixRow (ms.getD i 0) i = 0) →
    firstLow (~~~matrixRow m ms.length) = some c →
    (∀ x ∈ lows, (matrixRow x ms.length).getLsbD c.toNat = true) →
    (matrixRow high ms.length).getLsbD c.toNat = false →
      ∃ n t, steps n s = .next t ∧
        t.calcState = (applyTable s.cfg (keyAt s.cfg (posOf (BitVec.ofNat 2 ms.length) c)) s.calcState).after ∧
        t.trace = s.trace ++
          (applyTable s.cfg (keyAt s.cfg (posOf (BitVec.ofNat 2 ms.length) c)) s.calcState).writes ∧
        t.rowTrace = s.rowTrace ++ (List.range (ms.length + 1)).map (fun i => rowPattern (BitVec.ofNat 2 i)) ∧
        t.ph = .drive ∧ t.row = 0 ∧ t.lph = .idle ∧ t.txq = [] ∧ t.kev = false ∧
        t.keys = rest ∧ t.draws = s.draws ∧ t.cfg = s.cfg ∧ t.rstSched = []

/-- R222, R110, R223, under any parameters: from reset, after the power-on wait and four transactions the machine is at
`PH_DRIVE` with row 0, the display trace is exactly the four initialisation commands in order, the Calculator State is
`(0, 0, none)` and no sample was taken, whatever the user's schedule. -/
def Obligations.BootRunsToTheFirstScan : Prop :=
  ∀ (cfg : Config) (ks : List (BitVec 16)),
    steps (cfg.cycles cfg.tPwron + 4 * lcdEdges cfg) { State.resetWith cfg with keys := ks } =
      .next { State.resetWith cfg with
        keys := ks, ph := .drive, dly := 0, bootI := 3, txq := [], lcdD := cfg.cmdEntry,
        trace := [⟨false, cfg.cmdFuncset⟩, ⟨false, cfg.cmdDispon⟩, ⟨false, cfg.cmdClear⟩, ⟨false, cfg.cmdEntry⟩] }

/-- R223: after boot at the reference command codes: the display trace, the shown text, the Calculator State, and no key
event delivered; keys pressed during boot are not seen. -/
def Obligations.AfterBoot : Prop :=
  ∀ (cfg : Config) (ks : List (BitVec 16)),
    cfg.cmdFuncset = 0x38#8 → cfg.cmdDispon = 0x0C#8 → cfg.cmdClear = 0x01#8 → cfg.cmdEntry = 0x06#8 →
      ∃ n t, steps n { State.resetWith cfg with keys := ks } = .next t ∧
        (∀ m u, m < n → steps m { State.resetWith cfg with keys := ks } = .next u → u.ph = .boot) ∧
        t.ph = .drive ∧ t.row = 0 ∧
        t.trace = [⟨false, 0x38#8⟩, ⟨false, 0x0C#8⟩, ⟨false, 0x01#8⟩, ⟨false, 0x06#8⟩] ∧
        shownText cfg t.trace = some [] ∧
        t.calcState = ⟨0, 0, none⟩ ∧ t.kev = false ∧ t.keys = ks ∧ t.rowPins = 0b1111#4 ∧
        t.rowTrace = (State.resetWith cfg).rowTrace

/-! ### Rules about the whole machine -/

/-- R24, R20 to R22: an edge changes the Calculator State only where it applies a delivered key event in `PH_DISPATCH`,
or in reset. -/
def Obligations.OnlyKeyEventsWriteCalculatorState : Prop :=
  ∀ s t : State, s.rstSched = [] → step s = .next t → t.calcState ≠ s.calcState → s.ph = .dispatch ∧ s.kev = true

/-- R198, R216, R13: outside `PH_SAMPLE` and `PH_HOLD` the switches are not seen: the edge does the same whatever they
are and whatever the user's schedule, and leaves both alone. -/
def Obligations.SwitchesSeenOnlyInSampleAndHold : Prop :=
  ∀ (s : State) (m : BitVec 16) (ks : List (BitVec 16)) (n : Nat), s.rstSched = [] → s.ph ≠ .sample → s.ph ≠ .hold →
    step { s with closed := m, keys := ks, draws := n } =
      onNext (fun t => { t with closed := m, keys := ks, draws := n }) (step s)

/-- R134, R140, R33: the row lines change only in `PH_DRIVE`, to the pattern of the row. -/
def Obligations.OnlyDriveWritesRowLines : Prop :=
  ∀ s t : State, s.rstSched = [] → step s = .next t →
    (s.ph ≠ .drive → t.rowPins = s.rowPins ∧ t.rowTrace = s.rowTrace) ∧
    (s.ph = .drive → t.rowPins = rowPattern s.row ∧ t.rowTrace = s.rowTrace ++ [rowPattern s.row])

/-- R53, R66, R40: the parameters, the key map among them, are constant: no edge changes them, reset included. -/
def Obligations.ParametersAreConstant : Prop :=
  ∀ s t : State, step s = .next t → t.cfg = s.cfg

/-- R196, R207: at `OVF_MODE` = wrap the loop has no terminating condition: in every state, reachable or not, there is a
next state. -/
def Obligations.NoStepEndsTheRun : Prop :=
  ∀ s : State, s.cfg.ovf = .wrap → ∃ t, step s = .next t

/-- R220: an edge with `rst_n` low puts every register at its reset value, whatever the sequencer was doing. -/
def Obligations.ResetInputRestartsTheBlock : Prop :=
  ∀ (s : State) (rest : List Bool), s.rstSched = false :: rest →
    ∃ t, step s = .next t ∧ t.calcState = ⟨0, 0, none⟩ ∧ t.ph = .boot ∧ t.row = 0 ∧ t.bootI = 0 ∧ t.lph = .idle ∧
      t.dly = s.cfg.tPwron * s.cfg.tuCycles ∧ t.kev = false ∧
      t.txq = [⟨false, s.cfg.cmdFuncset⟩, ⟨false, s.cfg.cmdDispon⟩, ⟨false, s.cfg.cmdClear⟩, ⟨false, s.cfg.cmdEntry⟩] ∧
      t.rowPins = 0b1111#4 ∧ t.lcdD = 0x00#8 ∧ t.lcdRs = false ∧ t.lcdRw = false ∧ t.lcdE = false ∧
      t.closed = s.closed ∧ t.keys = s.keys ∧ t.draws = s.draws ∧ t.rstSched = rest

/-- R221, R43: the state at reset, at the reference parameters. -/
def Obligations.StateAtReset : Prop :=
  State.reset.calcState = ⟨0, 0, none⟩ ∧ State.reset.pendV = false ∧ State.reset.pendOp = 0b00#2 ∧
  State.reset.ph = .boot ∧ phaseCode State.reset.ph = 0#3 ∧ State.reset.rowPins = 0b1111#4 ∧
  State.reset.lcdE = false ∧ State.reset.lcdRw = false ∧ State.reset.lcdRs = false ∧ State.reset.lcdD = 0x00#8 ∧
  State.reset.lph = .idle ∧ State.reset.bootI = 0#2 ∧ State.reset.row = 0#2 ∧ State.reset.dly = 0 ∧
  State.reset.txq = [⟨false, 0x38#8⟩, ⟨false, 0x0C#8⟩, ⟨false, 0x01#8⟩, ⟨false, 0x06#8⟩] ∧
  shownText State.reset.cfg State.reset.trace = none

/-- R43 and the rules `Inv` cites: the invariant holds at reset, under any parameters whose width is at least 8.
Its clauses on the queue during a transaction and on the delivered key event are the model's (log entries 10 and 11). -/
def Obligations.InvariantAtReset : Prop :=
  Inv State.reset ∧ ∀ cfg : Config, 8 ≤ cfg.w → Inv (State.resetWith cfg)

/-- R23, R27, R28, R29, R32, R37, R38, R72, R83, R100, R110, R140: every edge keeps the invariant, from every state that
has it, under every input and both overflow modes. The clauses `busLines` and `bootQueue` speak of the front of `txq`
during a transaction and of `boot_i`, which are the model's choice (log entry 11), and `keyEvent` of the model's own
field `kev` (log entry 10). -/
def Obligations.StepKeepsInvariant : Prop :=
  ∀ s t : State, Inv s → step s = .next t → Inv t
end

