-- ==== Sys2Proof/Laws/State.lean ====
section
/-! SUPPORT. One lemma per field per update for the shared operations: what each writes and what each leaves alone, so
that later proofs unfold no record update. -/

namespace Sys2Proof.Machine

/-! ### `countDown` -/

@[simp] theorem countDown_cfg (s : State) : (countDown s).cfg = s.cfg := rfl

@[simp] theorem countDown_op1 (s : State) : (countDown s).op1 = s.op1 := rfl

@[simp] theorem countDown_op2 (s : State) : (countDown s).op2 = s.op2 := rfl

@[simp] theorem countDown_pend (s : State) : (countDown s).pend = s.pend := rfl

@[simp] theorem countDown_ph (s : State) : (countDown s).ph = s.ph := rfl

@[simp] theorem countDown_row (s : State) : (countDown s).row = s.row := rfl

@[simp] theorem countDown_kpos (s : State) : (countDown s).kpos = s.kpos := rfl

@[simp] theorem countDown_kcode (s : State) : (countDown s).kcode = s.kcode := rfl

@[simp] theorem countDown_kev (s : State) : (countDown s).kev = s.kev := rfl

@[simp] theorem countDown_dly (s : State) : (countDown s).dly = s.dly - 1 := rfl

@[simp] theorem countDown_bootI (s : State) : (countDown s).bootI = s.bootI := rfl

@[simp] theorem countDown_lph (s : State) : (countDown s).lph = s.lph := rfl

@[simp] theorem countDown_txq (s : State) : (countDown s).txq = s.txq := rfl

@[simp] theorem countDown_rowPins (s : State) : (countDown s).rowPins = s.rowPins := rfl

@[simp] theorem countDown_lcdD (s : State) : (countDown s).lcdD = s.lcdD := rfl

@[simp] theorem countDown_lcdRs (s : State) : (countDown s).lcdRs = s.lcdRs := rfl

@[simp] theorem countDown_lcdRw (s : State) : (countDown s).lcdRw = s.lcdRw := rfl

@[simp] theorem countDown_lcdE (s : State) : (countDown s).lcdE = s.lcdE := rfl

@[simp] theorem countDown_trace (s : State) : (countDown s).trace = s.trace := rfl

@[simp] theorem countDown_rowTrace (s : State) : (countDown s).rowTrace = s.rowTrace := rfl

@[simp] theorem countDown_closed (s : State) : (countDown s).closed = s.closed := rfl

@[simp] theorem countDown_keys (s : State) : (countDown s).keys = s.keys := rfl

@[simp] theorem countDown_draws (s : State) : (countDown s).draws = s.draws := rfl

@[simp] theorem countDown_rstSched (s : State) : (countDown s).rstSched = s.rstSched := rfl

/-! ### `queueWrites` -/

@[simp] theorem queueWrites_cfg (ws : List LcdWrite) (s : State) : (queueWrites ws s).cfg = s.cfg := rfl

@[simp] theorem queueWrites_op1 (ws : List LcdWrite) (s : State) : (queueWrites ws s).op1 = s.op1 := rfl

@[simp] theorem queueWrites_op2 (ws : List LcdWrite) (s : State) : (queueWrites ws s).op2 = s.op2 := rfl

@[simp] theorem queueWrites_pend (ws : List LcdWrite) (s : State) : (queueWrites ws s).pend = s.pend := rfl

@[simp] theorem queueWrites_ph (ws : List LcdWrite) (s : State) : (queueWrites ws s).ph = s.ph := rfl

@[simp] theorem queueWrites_row (ws : List LcdWrite) (s : State) : (queueWrites ws s).row = s.row := rfl

@[simp] theorem queueWrites_kpos (ws : List LcdWrite) (s : State) : (queueWrites ws s).kpos = s.kpos := rfl

@[simp] theorem queueWrites_kcode (ws : List LcdWrite) (s : State) : (queueWrites ws s).kcode = s.kcode := rfl

@[simp] theorem queueWrites_kev (ws : List LcdWrite) (s : State) : (queueWrites ws s).kev = s.kev := rfl

@[simp] theorem queueWrites_dly (ws : List LcdWrite) (s : State) : (queueWrites ws s).dly = s.dly := rfl

@[simp] theorem queueWrites_bootI (ws : List LcdWrite) (s : State) : (queueWrites ws s).bootI = s.bootI := rfl

@[simp] theorem queueWrites_lph (ws : List LcdWrite) (s : State) : (queueWrites ws s).lph = s.lph := rfl

@[simp] theorem queueWrites_txq (ws : List LcdWrite) (s : State) : (queueWrites ws s).txq = s.txq ++ ws := rfl

@[simp] theorem queueWrites_rowPins (ws : List LcdWrite) (s : State) : (queueWrites ws s).rowPins = s.rowPins := rfl

@[simp] theorem queueWrites_lcdD (ws : List LcdWrite) (s : State) : (queueWrites ws s).lcdD = s.lcdD := rfl

@[simp] theorem queueWrites_lcdRs (ws : List LcdWrite) (s : State) : (queueWrites ws s).lcdRs = s.lcdRs := rfl

@[simp] theorem queueWrites_lcdRw (ws : List LcdWrite) (s : State) : (queueWrites ws s).lcdRw = s.lcdRw := rfl

@[simp] theorem queueWrites_lcdE (ws : List LcdWrite) (s : State) : (queueWrites ws s).lcdE = s.lcdE := rfl

@[simp] theorem queueWrites_trace (ws : List LcdWrite) (s : State) : (queueWrites ws s).trace = s.trace := rfl

@[simp] theorem queueWrites_rowTrace (ws : List LcdWrite) (s : State) : (queueWrites ws s).rowTrace = s.rowTrace := rfl

@[simp] theorem queueWrites_closed (ws : List LcdWrite) (s : State) : (queueWrites ws s).closed = s.closed := rfl

@[simp] theorem queueWrites_keys (ws : List LcdWrite) (s : State) : (queueWrites ws s).keys = s.keys := rfl

@[simp] theorem queueWrites_draws (ws : List LcdWrite) (s : State) : (queueWrites ws s).draws = s.draws := rfl

@[simp] theorem queueWrites_rstSched (ws : List LcdWrite) (s : State) : (queueWrites ws s).rstSched = s.rstSched := rfl

/-! ### `clearCalc` -/

@[simp] theorem clearCalc_cfg (s : State) : (clearCalc s).cfg = s.cfg := rfl

@[simp] theorem clearCalc_op1 (s : State) : (clearCalc s).op1 = 0 := rfl

@[simp] theorem clearCalc_op2 (s : State) : (clearCalc s).op2 = 0 := rfl

@[simp] theorem clearCalc_pend (s : State) : (clearCalc s).pend = none := rfl

@[simp] theorem clearCalc_ph (s : State) : (clearCalc s).ph = s.ph := rfl

@[simp] theorem clearCalc_row (s : State) : (clearCalc s).row = s.row := rfl

@[simp] theorem clearCalc_kpos (s : State) : (clearCalc s).kpos = s.kpos := rfl

@[simp] theorem clearCalc_kcode (s : State) : (clearCalc s).kcode = s.kcode := rfl

@[simp] theorem clearCalc_kev (s : State) : (clearCalc s).kev = s.kev := rfl

@[simp] theorem clearCalc_dly (s : State) : (clearCalc s).dly = s.dly := rfl

@[simp] theorem clearCalc_bootI (s : State) : (clearCalc s).bootI = s.bootI := rfl

@[simp] theorem clearCalc_lph (s : State) : (clearCalc s).lph = s.lph := rfl

@[simp] theorem clearCalc_txq (s : State) : (clearCalc s).txq = s.txq := rfl

@[simp] theorem clearCalc_rowPins (s : State) : (clearCalc s).rowPins = s.rowPins := rfl

@[simp] theorem clearCalc_lcdD (s : State) : (clearCalc s).lcdD = s.lcdD := rfl

@[simp] theorem clearCalc_lcdRs (s : State) : (clearCalc s).lcdRs = s.lcdRs := rfl

@[simp] theorem clearCalc_lcdRw (s : State) : (clearCalc s).lcdRw = s.lcdRw := rfl

@[simp] theorem clearCalc_lcdE (s : State) : (clearCalc s).lcdE = s.lcdE := rfl

@[simp] theorem clearCalc_trace (s : State) : (clearCalc s).trace = s.trace := rfl

@[simp] theorem clearCalc_rowTrace (s : State) : (clearCalc s).rowTrace = s.rowTrace := rfl

@[simp] theorem clearCalc_closed (s : State) : (clearCalc s).closed = s.closed := rfl

@[simp] theorem clearCalc_keys (s : State) : (clearCalc s).keys = s.keys := rfl

@[simp] theorem clearCalc_draws (s : State) : (clearCalc s).draws = s.draws := rfl

@[simp] theorem clearCalc_rstSched (s : State) : (clearCalc s).rstSched = s.rstSched := rfl

/-! ### `selectRow` -/

@[simp] theorem selectRow_cfg (r : BitVec 2) (s : State) : (selectRow r s).cfg = s.cfg := rfl

@[simp] theorem selectRow_op1 (r : BitVec 2) (s : State) : (selectRow r s).op1 = s.op1 := rfl

@[simp] theorem selectRow_op2 (r : BitVec 2) (s : State) : (selectRow r s).op2 = s.op2 := rfl

@[simp] theorem selectRow_pend (r : BitVec 2) (s : State) : (selectRow r s).pend = s.pend := rfl

@[simp] theorem selectRow_ph (r : BitVec 2) (s : State) : (selectRow r s).ph = s.ph := rfl

@[simp] theorem selectRow_row (r : BitVec 2) (s : State) : (selectRow r s).row = r := rfl

@[simp] theorem selectRow_kpos (r : BitVec 2) (s : State) : (selectRow r s).kpos = s.kpos := rfl

@[simp] theorem selectRow_kcode (r : BitVec 2) (s : State) : (selectRow r s).kcode = s.kcode := rfl

@[simp] theorem selectRow_kev (r : BitVec 2) (s : State) : (selectRow r s).kev = s.kev := rfl

@[simp] theorem selectRow_dly (r : BitVec 2) (s : State) : (selectRow r s).dly = s.dly := rfl

@[simp] theorem selectRow_bootI (r : BitVec 2) (s : State) : (selectRow r s).bootI = s.bootI := rfl

@[simp] theorem selectRow_lph (r : BitVec 2) (s : State) : (selectRow r s).lph = s.lph := rfl

@[simp] theorem selectRow_txq (r : BitVec 2) (s : State) : (selectRow r s).txq = s.txq := rfl

@[simp] theorem selectRow_rowPins (r : BitVec 2) (s : State) : (selectRow r s).rowPins = rowPattern r := rfl

@[simp] theorem selectRow_lcdD (r : BitVec 2) (s : State) : (selectRow r s).lcdD = s.lcdD := rfl

@[simp] theorem selectRow_lcdRs (r : BitVec 2) (s : State) : (selectRow r s).lcdRs = s.lcdRs := rfl

@[simp] theorem selectRow_lcdRw (r : BitVec 2) (s : State) : (selectRow r s).lcdRw = s.lcdRw := rfl

@[simp] theorem selectRow_lcdE (r : BitVec 2) (s : State) : (selectRow r s).lcdE = s.lcdE := rfl

@[simp] theorem selectRow_trace (r : BitVec 2) (s : State) : (selectRow r s).trace = s.trace := rfl

@[simp] theorem selectRow_rowTrace (r : BitVec 2) (s : State) : (selectRow r s).rowTrace = s.rowTrace ++ [rowPattern r] := rfl

@[simp] theorem selectRow_closed (r : BitVec 2) (s : State) : (selectRow r s).closed = s.closed := rfl

@[simp] theorem selectRow_keys (r : BitVec 2) (s : State) : (selectRow r s).keys = s.keys := rfl

@[simp] theorem selectRow_draws (r : BitVec 2) (s : State) : (selectRow r s).draws = s.draws := rfl

@[simp] theorem selectRow_rstSched (r : BitVec 2) (s : State) : (selectRow r s).rstSched = s.rstSched := rfl

/-! ### `lcdWrite` -/

@[simp] theorem lcdWrite_cfg (rs : Bool) (v : Byte) (s : State) : (lcdWrite rs v s).cfg = s.cfg := by
  unfold lcdWrite; repeat' split
  all_goals rfl

@[simp] theorem lcdWrite_op1 (rs : Bool) (v : Byte) (s : State) : (lcdWrite rs v s).op1 = s.op1 := by
  unfold lcdWrite; repeat' split
  all_goals rfl

@[simp] theorem lcdWrite_op2 (rs : Bool) (v : Byte) (s : State) : (lcdWrite rs v s).op2 = s.op2 := by
  unfold lcdWrite; repeat' split
  all_goals rfl

@[simp] theorem lcdWrite_pend (rs : Bool) (v : Byte) (s : State) : (lcdWrite rs v s).pend = s.pend := by
  unfold lcdWrite; repeat' split
  all_goals rfl

@[simp] theorem lcdWrite_ph (rs : Bool) (v : Byte) (s : State) : (lcdWrite rs v s).ph = s.ph := by
  unfold lcdWrite; repeat' split
  all_goals rfl

@[simp] theorem lcdWrite_row (rs : Bool) (v : Byte) (s : State) : (lcdWrite rs v s).row = s.row := by
  unfold lcdWrite; repeat' split
  all_goals rfl

@[simp] theorem lcdWrite_kpos (rs : Bool) (v : Byte) (s : State) : (lcdWrite rs v s).kpos = s.kpos := by
  unfold lcdWrite; repeat' split
  all_goals rfl

@[simp] theorem lcdWrite_kcode (rs : Bool) (v : Byte) (s : State) : (lcdWrite rs v s).kcode = s.kcode := by
  unfold lcdWrite; repeat' split
  all_goals rfl

@[simp] theorem lcdWrite_kev (rs : Bool) (v : Byte) (s : State) : (lcdWrite rs v s).kev = s.kev := by
  unfold lcdWrite; repeat' split
  all_goals rfl

@[simp] theorem lcdWrite_bootI (rs : Bool) (v : Byte) (s : State) : (lcdWrite rs v s).bootI = s.bootI := by
  unfold lcdWrite; repeat' split
  all_goals rfl

@[simp] theorem lcdWrite_txq (rs : Bool) (v : Byte) (s : State) : (lcdWrite rs v s).txq = s.txq := by
  unfold lcdWrite; repeat' split
  all_goals rfl

@[simp] theorem lcdWrite_rowPins (rs : Bool) (v : Byte) (s : State) : (lcdWrite rs v s).rowPins = s.rowPins := by
  unfold lcdWrite; repeat' split
  all_goals rfl

@[simp] theorem lcdWrite_rowTrace (rs : Bool) (v : Byte) (s : State) : (lcdWrite rs v s).rowTrace = s.rowTrace := by
  unfold lcdWrite; repeat' split
  all_goals rfl

@[simp] theorem lcdWrite_closed (rs : Bool) (v : Byte) (s : State) : (lcdWrite rs v s).closed = s.closed := by
  unfold lcdWrite; repeat' split
  all_goals rfl

@[simp] theorem lcdWrite_keys (rs : Bool) (v : Byte) (s : State) : (lcdWrite rs v s).keys = s.keys := by
  unfold lcdWrite; repeat' split
  all_goals rfl

@[simp] theorem lcdWrite_draws (rs : Bool) (v : Byte) (s : State) : (lcdWrite rs v s).draws = s.draws := by
  unfold lcdWrite; repeat' split
  all_goals rfl

@[simp] theorem lcdWrite_rstSched (rs : Bool) (v : Byte) (s : State) : (lcdWrite rs v s).rstSched = s.rstSched := by
  unfold lcdWrite; repeat' split
  all_goals rfl

/-! ### `observeMatrix` -/

@[simp] theorem observeMatrix_cfg (s : State) : (observeMatrix s).cfg = s.cfg := by
  unfold observeMatrix; split <;> rfl

@[simp] theorem observeMatrix_op1 (s : State) : (observeMatrix s).op1 = s.op1 := by
  unfold observeMatrix; split <;> rfl

@[simp] theorem observeMatrix_op2 (s : State) : (observeMatrix s).op2 = s.op2 := by
  unfold observeMatrix; split <;> rfl

@[simp] theorem observeMatrix_pend (s : State) : (observeMatrix s).pend = s.pend := by
  unfold observeMatrix; split <;> rfl

@[simp] theorem observeMatrix_ph (s : State) : (observeMatrix s).ph = s.ph := by
  unfold observeMatrix; split <;> rfl

@[simp] theorem observeMatrix_row (s : State) : (observeMatrix s).row = s.row := by
  unfold observeMatrix; split <;> rfl

@[simp] theorem observeMatrix_kpos (s : State) : (observeMatrix s).kpos = s.kpos := by
  unfold observeMatrix; split <;> rfl

@[simp] theorem observeMatrix_kcode (s : State) : (observeMatrix s).kcode = s.kcode := by
  unfold observeMatrix; split <;> rfl

@[simp] theorem observeMatrix_kev (s : State) : (observeMatrix s).kev = s.kev := by
  unfold observeMatrix; split <;> rfl

@[simp] theorem observeMatrix_dly (s : State) : (observeMatrix s).dly = s.dly := by
  unfold observeMatrix; split <;> rfl

@[simp] theorem observeMatrix_bootI (s : State) : (observeMatrix s).bootI = s.bootI := by
  unfold observeMatrix; split <;> rfl

@[simp] theorem observeMatrix_lph (s : State) : (observeMatrix s).lph = s.lph := by
  unfold observeMatrix; split <;> rfl

@[simp] theorem observeMatrix_txq (s : State) : (observeMatrix s).txq = s.txq := by
  unfold observeMatrix; split <;> rfl

@[simp] theorem observeMatrix_rowPins (s : State) : (observeMatrix s).rowPins = s.rowPins := by
  unfold observeMatrix; split <;> rfl

@[simp] theorem observeMatrix_lcdD (s : State) : (observeMatrix s).lcdD = s.lcdD := by
  unfold observeMatrix; split <;> rfl

@[simp] theorem observeMatrix_lcdRs (s : State) : (observeMatrix s).lcdRs = s.lcdRs := by
  unfold observeMatrix; split <;> rfl

@[simp] theorem observeMatrix_lcdRw (s : State) : (observeMatrix s).lcdRw = s.lcdRw := by
  unfold observeMatrix; split <;> rfl

@[simp] theorem observeMatrix_lcdE (s : State) : (observeMatrix s).lcdE = s.lcdE := by
  unfold observeMatrix; split <;> rfl

@[simp] theorem observeMatrix_trace (s : State) : (observeMatrix s).trace = s.trace := by
  unfold observeMatrix; split <;> rfl

@[simp] theorem observeMatrix_rowTrace (s : State) : (observeMatrix s).rowTrace = s.rowTrace := by
  unfold observeMatrix; split <;> rfl

@[simp] theorem observeMatrix_rstSched (s : State) : (observeMatrix s).rstSched = s.rstSched := by
  unfold observeMatrix; split <;> rfl

/-! ### `popDone` -/

@[simp] theorem popDone_cfg (s : State) : (popDone s).cfg = s.cfg := by
  unfold popDone; split <;> rfl

@[simp] theorem popDone_op1 (s : State) : (popDone s).op1 = s.op1 := by
  unfold popDone; split <;> rfl

@[simp] theorem popDone_op2 (s : State) : (popDone s).op2 = s.op2 := by
  unfold popDone; split <;> rfl

@[simp] theorem popDone_pend (s : State) : (popDone s).pend = s.pend := by
  unfold popDone; split <;> rfl

@[simp] theorem popDone_ph (s : State) : (popDone s).ph = s.ph := by
  unfold popDone; split <;> rfl

@[simp] theorem popDone_row (s : State) : (popDone s).row = s.row := by
  unfold popDone; split <;> rfl

@[simp] theorem popDone_kpos (s : State) : (popDone s).kpos = s.kpos := by
  unfold popDone; split <;> rfl

@[simp] theorem popDone_kcode (s : State) : (popDone s).kcode = s.kcode := by
  unfold popDone; split <;> rfl

@[simp] theorem popDone_kev (s : State) : (popDone s).kev = s.kev := by
  unfold popDone; split <;> rfl

@[simp] theorem popDone_dly (s : State) : (popDone s).dly = s.dly := by
  unfold popDone; split <;> rfl

@[simp] theorem popDone_bootI (s : State) : (popDone s).bootI = s.bootI := by
  unfold popDone; split <;> rfl

@[simp] theorem popDone_lph (s : State) : (popDone s).lph = s.lph := by
  unfold popDone; split <;> rfl

@[simp] theorem popDone_rowPins (s : State) : (popDone s).rowPins = s.rowPins := by
  unfold popDone; split <;> rfl

@[simp] theorem popDone_lcdD (s : State) : (popDone s).lcdD = s.lcdD := by
  unfold popDone; split <;> rfl

@[simp] theorem popDone_lcdRs (s : State) : (popDone s).lcdRs = s.lcdRs := by
  unfold popDone; split <;> rfl

@[simp] theorem popDone_lcdRw (s : State) : (popDone s).lcdRw = s.lcdRw := by
  unfold popDone; split <;> rfl

@[simp] theorem popDone_lcdE (s : State) : (popDone s).lcdE = s.lcdE := by
  unfold popDone; split <;> rfl

@[simp] theorem popDone_trace (s : State) : (popDone s).trace = s.trace := by
  unfold popDone; split <;> rfl

@[simp] theorem popDone_rowTrace (s : State) : (popDone s).rowTrace = s.rowTrace := by
  unfold popDone; split <;> rfl

@[simp] theorem popDone_closed (s : State) : (popDone s).closed = s.closed := by
  unfold popDone; split <;> rfl

@[simp] theorem popDone_keys (s : State) : (popDone s).keys = s.keys := by
  unfold popDone; split <;> rfl

@[simp] theorem popDone_draws (s : State) : (popDone s).draws = s.draws := by
  unfold popDone; split <;> rfl

@[simp] theorem popDone_rstSched (s : State) : (popDone s).rstSched = s.rstSched := by
  unfold popDone; split <;> rfl

/-! ### `bootAdvance` -/

@[simp] theorem bootAdvance_cfg (s : State) : (bootAdvance s).cfg = s.cfg := by
  unfold bootAdvance; repeat' split
  all_goals rfl

@[simp] theorem bootAdvance_op1 (s : State) : (bootAdvance s).op1 = s.op1 := by
  unfold bootAdvance; repeat' split
  all_goals rfl

@[simp] theorem bootAdvance_op2 (s : State) : (bootAdvance s).op2 = s.op2 := by
  unfold bootAdvance; repeat' split
  all_goals rfl

@[simp] theorem bootAdvance_pend (s : State) : (bootAdvance s).pend = s.pend := by
  unfold bootAdvance; repeat' split
  all_goals rfl

@[simp] theorem bootAdvance_kpos (s : State) : (bootAdvance s).kpos = s.kpos := by
  unfold bootAdvance; repeat' split
  all_goals rfl

@[simp] theorem bootAdvance_kcode (s : State) : (bootAdvance s).kcode = s.kcode := by
  unfold bootAdvance; repeat' split
  all_goals rfl

@[simp] theorem bootAdvance_kev (s : State) : (bootAdvance s).kev = s.kev := by
  unfold bootAdvance; repeat' split
  all_goals rfl

@[simp] theorem bootAdvance_dly (s : State) : (bootAdvance s).dly = s.dly := by
  unfold bootAdvance; repeat' split
  all_goals rfl

@[simp] theorem bootAdvance_lph (s : State) : (bootAdvance s).lph = s.lph := by
  unfold bootAdvance; repeat' split
  all_goals rfl

@[simp] theorem bootAdvance_rowPins (s : State) : (bootAdvance s).rowPins = s.rowPins := by
  unfold bootAdvance; repeat' split
  all_goals rfl

@[simp] theorem bootAdvance_lcdD (s : State) : (bootAdvance s).lcdD = s.lcdD := by
  unfold bootAdvance; repeat' split
  all_goals rfl

@[simp] theorem bootAdvance_lcdRs (s : State) : (bootAdvance s).lcdRs = s.lcdRs := by
  unfold bootAdvance; repeat' split
  all_goals rfl

@[simp] theorem bootAdvance_lcdRw (s : State) : (bootAdvance s).lcdRw = s.lcdRw := by
  unfold bootAdvance; repeat' split
  all_goals rfl

@[simp] theorem bootAdvance_lcdE (s : State) : (bootAdvance s).lcdE = s.lcdE := by
  unfold bootAdvance; repeat' split
  all_goals rfl

@[simp] theorem bootAdvance_trace (s : State) : (bootAdvance s).trace = s.trace := by
  unfold bootAdvance; repeat' split
  all_goals rfl

@[simp] theorem bootAdvance_rowTrace (s : State) : (bootAdvance s).rowTrace = s.rowTrace := by
  unfold bootAdvance; repeat' split
  all_goals rfl

@[simp] theorem bootAdvance_closed (s : State) : (bootAdvance s).closed = s.closed := by
  unfold bootAdvance; repeat' split
  all_goals rfl

@[simp] theorem bootAdvance_keys (s : State) : (bootAdvance s).keys = s.keys := by
  unfold bootAdvance; repeat' split
  all_goals rfl

@[simp] theorem bootAdvance_draws (s : State) : (bootAdvance s).draws = s.draws := by
  unfold bootAdvance; repeat' split
  all_goals rfl

@[simp] theorem bootAdvance_rstSched (s : State) : (bootAdvance s).rstSched = s.rstSched := by
  unfold bootAdvance; repeat' split
  all_goals rfl

/-! ### `afterInstr` -/

@[simp] theorem afterInstr_cfg (s : State) : (afterInstr s).cfg = s.cfg := by
  unfold afterInstr; repeat' split
  all_goals simp

@[simp] theorem afterInstr_op1 (s : State) : (afterInstr s).op1 = s.op1 := by
  unfold afterInstr; repeat' split
  all_goals simp

@[simp] theorem afterInstr_op2 (s : State) : (afterInstr s).op2 = s.op2 := by
  unfold afterInstr; repeat' split
  all_goals simp

@[simp] theorem afterInstr_pend (s : State) : (afterInstr s).pend = s.pend := by
  unfold afterInstr; repeat' split
  all_goals simp

@[simp] theorem afterInstr_kpos (s : State) : (afterInstr s).kpos = s.kpos := by
  unfold afterInstr; repeat' split
  all_goals simp

@[simp] theorem afterInstr_kcode (s : State) : (afterInstr s).kcode = s.kcode := by
  unfold afterInstr; repeat' split
  all_goals simp

@[simp] theorem afterInstr_lph (s : State) : (afterInstr s).lph = s.lph := by
  unfold afterInstr; repeat' split
  all_goals simp

@[simp] theorem afterInstr_rowPins (s : State) : (afterInstr s).rowPins = s.rowPins := by
  unfold afterInstr; repeat' split
  all_goals simp

@[simp] theorem afterInstr_lcdD (s : State) : (afterInstr s).lcdD = s.lcdD := by
  unfold afterInstr; repeat' split
  all_goals simp

@[simp] theorem afterInstr_lcdRs (s : State) : (afterInstr s).lcdRs = s.lcdRs := by
  unfold afterInstr; repeat' split
  all_goals simp

@[simp] theorem afterInstr_lcdRw (s : State) : (afterInstr s).lcdRw = s.lcdRw := by
  unfold afterInstr; repeat' split
  all_goals simp

@[simp] theorem afterInstr_lcdE (s : State) : (afterInstr s).lcdE = s.lcdE := by
  unfold afterInstr; repeat' split
  all_goals simp

@[simp] theorem afterInstr_trace (s : State) : (afterInstr s).trace = s.trace := by
  unfold afterInstr; repeat' split
  all_goals simp

@[simp] theorem afterInstr_rowTrace (s : State) : (afterInstr s).rowTrace = s.rowTrace := by
  unfold afterInstr; repeat' split
  all_goals simp

@[simp] theorem afterInstr_closed (s : State) : (afterInstr s).closed = s.closed := by
  unfold afterInstr; repeat' split
  all_goals simp

@[simp] theorem afterInstr_keys (s : State) : (afterInstr s).keys = s.keys := by
  unfold afterInstr; repeat' split
  all_goals simp

@[simp] theorem afterInstr_draws (s : State) : (afterInstr s).draws = s.draws := by
  unfold afterInstr; repeat' split
  all_goals simp

@[simp] theorem afterInstr_rstSched (s : State) : (afterInstr s).rstSched = s.rstSched := by
  unfold afterInstr; repeat' split
  all_goals simp

/-! ### `afterSample` -/

@[simp] theorem afterSample_cfg (s : State) : (afterSample s).cfg = s.cfg := by
  unfold afterSample; split <;> rfl

@[simp] theorem afterSample_op1 (s : State) : (afterSample s).op1 = s.op1 := by
  unfold afterSample; split <;> rfl

@[simp] theorem afterSample_op2 (s : State) : (afterSample s).op2 = s.op2 := by
  unfold afterSample; split <;> rfl

@[simp] theorem afterSample_pend (s : State) : (afterSample s).pend = s.pend := by
  unfold afterSample; split <;> rfl

@[simp] theorem afterSample_kev (s : State) : (afterSample s).kev = s.kev := by
  unfold afterSample; split <;> rfl

@[simp] theorem afterSample_dly (s : State) : (afterSample s).dly = s.dly := by
  unfold afterSample; split <;> rfl

@[simp] theorem afterSample_bootI (s : State) : (afterSample s).bootI = s.bootI := by
  unfold afterSample; split <;> rfl

@[simp] theorem afterSample_lph (s : State) : (afterSample s).lph = s.lph := by
  unfold afterSample; split <;> rfl

@[simp] theorem afterSample_txq (s : State) : (afterSample s).txq = s.txq := by
  unfold afterSample; split <;> rfl

@[simp] theorem afterSample_rowPins (s : State) : (afterSample s).rowPins = s.rowPins := by
  unfold afterSample; split <;> rfl

@[simp] theorem afterSample_lcdD (s : State) : (afterSample s).lcdD = s.lcdD := by
  unfold afterSample; split <;> rfl

@[simp] theorem afterSample_lcdRs (s : State) : (afterSample s).lcdRs = s.lcdRs := by
  unfold afterSample; split <;> rfl

@[simp] theorem afterSample_lcdRw (s : State) : (afterSample s).lcdRw = s.lcdRw := by
  unfold afterSample; split <;> rfl

@[simp] theorem afterSample_lcdE (s : State) : (afterSample s).lcdE = s.lcdE := by
  unfold afterSample; split <;> rfl

@[simp] theorem afterSample_trace (s : State) : (afterSample s).trace = s.trace := by
  unfold afterSample; split <;> rfl

@[simp] theorem afterSample_rowTrace (s : State) : (afterSample s).rowTrace = s.rowTrace := by
  unfold afterSample; split <;> rfl

@[simp] theorem afterSample_closed (s : State) : (afterSample s).closed = s.closed := by
  unfold afterSample; split <;> rfl

@[simp] theorem afterSample_keys (s : State) : (afterSample s).keys = s.keys := by
  unfold afterSample; split <;> rfl

@[simp] theorem afterSample_draws (s : State) : (afterSample s).draws = s.draws := by
  unfold afterSample; split <;> rfl

@[simp] theorem afterSample_rstSched (s : State) : (afterSample s).rstSched = s.rstSched := by
  unfold afterSample; split <;> rfl

/-! ### `afterHoldSample` -/

@[simp] theorem afterHoldSample_cfg (s : State) : (afterHoldSample s).cfg = s.cfg := by
  unfold afterHoldSample; split <;> rfl

@[simp] theorem afterHoldSample_op1 (s : State) : (afterHoldSample s).op1 = s.op1 := by
  unfold afterHoldSample; split <;> rfl

@[simp] theorem afterHoldSample_op2 (s : State) : (afterHoldSample s).op2 = s.op2 := by
  unfold afterHoldSample; split <;> rfl

@[simp] theorem afterHoldSample_pend (s : State) : (afterHoldSample s).pend = s.pend := by
  unfold afterHoldSample; split <;> rfl

@[simp] theorem afterHoldSample_row (s : State) : (afterHoldSample s).row = s.row := by
  unfold afterHoldSample; split <;> rfl

@[simp] theorem afterHoldSample_kpos (s : State) : (afterHoldSample s).kpos = s.kpos := by
  unfold afterHoldSample; split <;> rfl

@[simp] theorem afterHoldSample_kcode (s : State) : (afterHoldSample s).kcode = s.kcode := by
  unfold afterHoldSample; split <;> rfl

@[simp] theorem afterHoldSample_kev (s : State) : (afterHoldSample s).kev = s.kev := by
  unfold afterHoldSample; split <;> rfl

@[simp] theorem afterHoldSample_bootI (s : State) : (afterHoldSample s).bootI = s.bootI := by
  unfold afterHoldSample; split <;> rfl

@[simp] theorem afterHoldSample_lph (s : State) : (afterHoldSample s).lph = s.lph := by
  unfold afterHoldSample; split <;> rfl

@[simp] theorem afterHoldSample_txq (s : State) : (afterHoldSample s).txq = s.txq := by
  unfold afterHoldSample; split <;> rfl

@[simp] theorem afterHoldSample_rowPins (s : State) : (afterHoldSample s).rowPins = s.rowPins := by
  unfold afterHoldSample; split <;> rfl

@[simp] theorem afterHoldSample_lcdD (s : State) : (afterHoldSample s).lcdD = s.lcdD := by
  unfold afterHoldSample; split <;> rfl

@[simp] theorem afterHoldSample_lcdRs (s : State) : (afterHoldSample s).lcdRs = s.lcdRs := by
  unfold afterHoldSample; split <;> rfl

@[simp] theorem afterHoldSample_lcdRw (s : State) : (afterHoldSample s).lcdRw = s.lcdRw := by
  unfold afterHoldSample; split <;> rfl

@[simp] theorem afterHoldSample_lcdE (s : State) : (afterHoldSample s).lcdE = s.lcdE := by
  unfold afterHoldSample; split <;> rfl

@[simp] theorem afterHoldSample_trace (s : State) : (afterHoldSample s).trace = s.trace := by
  unfold afterHoldSample; split <;> rfl

@[simp] theorem afterHoldSample_rowTrace (s : State) : (afterHoldSample s).rowTrace = s.rowTrace := by
  unfold afterHoldSample; split <;> rfl

@[simp] theorem afterHoldSample_closed (s : State) : (afterHoldSample s).closed = s.closed := by
  unfold afterHoldSample; split <;> rfl

@[simp] theorem afterHoldSample_keys (s : State) : (afterHoldSample s).keys = s.keys := by
  unfold afterHoldSample; split <;> rfl

@[simp] theorem afterHoldSample_draws (s : State) : (afterHoldSample s).draws = s.draws := by
  unfold afterHoldSample; split <;> rfl

@[simp] theorem afterHoldSample_rstSched (s : State) : (afterHoldSample s).rstSched = s.rstSched := by
  unfold afterHoldSample; split <;> rfl

/-! ### `drainCycle` -/

@[simp] theorem drainCycle_cfg (s : State) : (drainCycle s).cfg = s.cfg := by
  unfold drainCycle; split <;> simp

@[simp] theorem drainCycle_op1 (s : State) : (drainCycle s).op1 = s.op1 := by
  unfold drainCycle; split <;> simp

@[simp] theorem drainCycle_op2 (s : State) : (drainCycle s).op2 = s.op2 := by
  unfold drainCycle; split <;> simp

@[simp] theorem drainCycle_pend (s : State) : (drainCycle s).pend = s.pend := by
  unfold drainCycle; split <;> simp

@[simp] theorem drainCycle_kpos (s : State) : (drainCycle s).kpos = s.kpos := by
  unfold drainCycle; split <;> simp

@[simp] theorem drainCycle_kcode (s : State) : (drainCycle s).kcode = s.kcode := by
  unfold drainCycle; split <;> simp

@[simp] theorem drainCycle_kev (s : State) : (drainCycle s).kev = s.kev := by
  unfold drainCycle; split <;> simp

@[simp] theorem drainCycle_bootI (s : State) : (drainCycle s).bootI = s.bootI := by
  unfold drainCycle; split <;> simp

@[simp] theorem drainCycle_rowPins (s : State) : (drainCycle s).rowPins = s.rowPins := by
  unfold drainCycle; split <;> simp

@[simp] theorem drainCycle_rowTrace (s : State) : (drainCycle s).rowTrace = s.rowTrace := by
  unfold drainCycle; split <;> simp

@[simp] theorem drainCycle_closed (s : State) : (drainCycle s).closed = s.closed := by
  unfold drainCycle; split <;> simp

@[simp] theorem drainCycle_keys (s : State) : (drainCycle s).keys = s.keys := by
  unfold drainCycle; split <;> simp

@[simp] theorem drainCycle_draws (s : State) : (drainCycle s).draws = s.draws := by
  unfold drainCycle; split <;> simp

@[simp] theorem drainCycle_rstSched (s : State) : (drainCycle s).rstSched = s.rstSched := by
  unfold drainCycle; split <;> simp

/-! ### `sequencerCycle` -/

@[simp] theorem sequencerCycle_cfg (s : State) : (sequencerCycle s).cfg = s.cfg := by
  unfold sequencerCycle; repeat' split
  all_goals simp

@[simp] theorem sequencerCycle_op1 (s : State) : (sequencerCycle s).op1 = s.op1 := by
  unfold sequencerCycle; repeat' split
  all_goals simp

@[simp] theorem sequencerCycle_op2 (s : State) : (sequencerCycle s).op2 = s.op2 := by
  unfold sequencerCycle; repeat' split
  all_goals simp

@[simp] theorem sequencerCycle_pend (s : State) : (sequencerCycle s).pend = s.pend := by
  unfold sequencerCycle; repeat' split
  all_goals simp

@[simp] theorem sequencerCycle_bootI (s : State) : (sequencerCycle s).bootI = s.bootI := by
  unfold sequencerCycle; repeat' split
  all_goals simp

@[simp] theorem sequencerCycle_rowPins (s : State) : (sequencerCycle s).rowPins = s.rowPins := by
  unfold sequencerCycle; repeat' split
  all_goals simp

@[simp] theorem sequencerCycle_rowTrace (s : State) : (sequencerCycle s).rowTrace = s.rowTrace := by
  unfold sequencerCycle; repeat' split
  all_goals simp

@[simp] theorem sequencerCycle_rstSched (s : State) : (sequencerCycle s).rstSched = s.rstSched := by
  unfold sequencerCycle; repeat' split
  all_goals simp

end Sys2Proof.Machine
end

