-- ==== Sys2Proof/Laws/Ops.lean ====
section
/-! SUPPORT. What each shared operation can do, said once: narrowing, a digit step, a bus write edge, an observation of
the switches, the word of a display write, the column lines with one row driven. -/

namespace Sys2Proof.Machine

/-! ### `onNext` -/

theorem onNext_eq_next {f : State → State} {r : Result} {t : State} (h : onNext f r = .next t) :
    ∃ s, r = .next s ∧ t = f s := by
  cases r with
  | next s => simp only [onNext, Host.Outcome.next.injEq] at h; exact ⟨s, rfl, h.symm⟩
  | fault r => simp [onNext] at h
  | refused r => simp [onNext] at h

/-! ### The parameters with one value -/

@[simp] theorem matrixSize_toNat (n : MatrixSize) : n.toNat = 4 := rfl

@[simp] theorem busWidth_toNat (n : BusWidth) : n.toNat = 8 := rfl

/-! ### Arithmetic -/

theorem narrow_wrap (cfg : Config) (v : Int) (h : cfg.ovf = .wrap) : narrow cfg v = .ok (wrapW cfg v) := by
  simp [narrow, h]

theorem narrow_fault_fits (cfg : Config) (v : Int) (h : cfg.ovf = .fault) (hv : inRange cfg v) :
    narrow cfg v = .ok v := by
  simp only [narrow, h, if_pos hv]

theorem narrow_fault_overflows (cfg : Config) (v : Int) (h : cfg.ovf = .fault) (hv : ¬ inRange cfg v) :
    narrow cfg v = .error .overflow := by
  simp only [narrow, h, if_neg hv]

/-- Narrowing answers a value or the one fault. -/
theorem narrow_cases (cfg : Config) (v : Int) : (∃ r, narrow cfg v = .ok r) ∨ narrow cfg v = .error .overflow := by
  unfold narrow
  cases cfg.ovf
  · exact .inl ⟨_, rfl⟩
  · by_cases h : inRange cfg v
    · rw [if_pos h]; exact .inl ⟨v, rfl⟩
    · rw [if_neg h]; exact .inr rfl

/-! ### Keys -/

/-- A digit step that completes writes one operand, by `pend`, and appends its echo. -/
theorem digitStep_cases (d : Fin 10) (s t : State) (h : digitStep d s = .next t) :
    ∃ v, (s.pend = none ∧ narrow s.cfg (s.op1 * 10 + d.val) = .ok v ∧
        t = { s with op1 := v, txq := s.txq ++ [⟨true, s.cfg.code (.digit d)⟩] }) ∨
      ((∃ op, s.pend = some op) ∧ narrow s.cfg (s.op2 * 10 + d.val) = .ok v ∧
        t = { s with op2 := v, txq := s.txq ++ [⟨true, s.cfg.code (.digit d)⟩] }) := by
  unfold digitStep at h
  cases hp : s.pend with
  | none =>
    simp only [hp] at h
    split at h
    · cases h; exact ⟨_, .inl ⟨rfl, ‹_›, rfl⟩⟩
    · cases h
  | some op =>
    simp only [hp] at h
    split at h
    · cases h; exact ⟨_, .inr ⟨⟨op, rfl⟩, ‹_›, rfl⟩⟩
    · cases h

/-- Equals that completes does nothing, takes DivideByZero, or shows a result. -/
theorem execKeyEq_cases (s t : State) (h : execKeyEq s = .next t) :
    (s.pend = none ∧ t = s) ∨
    (s.pend = some .div ∧ s.op2 = 0 ∧ t = returnFromDivideByZero (raiseDivideByZero s)) ∨
    ∃ op v, s.pend = some op ∧ ¬ (op = .div ∧ s.op2 = 0) ∧ compute s.cfg op s.op1 s.op2 = .ok v ∧
      t = showResult v s := by
  unfold execKeyEq at h
  cases hp : s.pend with
  | none => simp only [hp] at h; cases h; exact .inl ⟨rfl, rfl⟩
  | some op =>
    simp only [hp] at h
    split at h
    · rename_i hd
      cases h; exact .inr (.inl ⟨by rw [hd.1], hd.2, rfl⟩)
    · split at h
      · cases h; exact .inr (.inr ⟨op, _, rfl, ‹_›, ‹_›, rfl⟩)
      · cases h

/-- The frame of the sixteen keys: a fault, or a state that differs in the Calculator State and in what is appended to
`txq`. -/
theorem exec_key_shape (i : Instr) (hi : i ∈ keyList) (s : State) :
    exec i s = .fault .overflow ∨
    ∃ a b p ws, exec i s = .next { s with op1 := a, op2 := b, pend := p, txq := s.txq ++ ws } := by
  have hd : ∀ d, digitStep d s = .fault .overflow ∨
      ∃ a b p ws, digitStep d s = .next { s with op1 := a, op2 := b, pend := p, txq := s.txq ++ ws } := by
    intro d
    unfold digitStep
    cases s.pend with
    | none =>
      dsimp only
      rcases narrow_cases s.cfg (s.op1 * 10 + d.val) with ⟨r, h⟩ | h <;> rw [h]
      · exact .inr ⟨r, s.op2, none, _, rfl⟩
      · exact .inl rfl
    | some o =>
      dsimp only
      rcases narrow_cases s.cfg (s.op2 * 10 + d.val) with ⟨r, h⟩ | h <;> rw [h]
      · exact .inr ⟨s.op1, r, some o, _, rfl⟩
      · exact .inl rfl
  cases i <;> first | exact hd _ | exact .inr ⟨_, _, _, _, rfl⟩ | skip
  case keyEq =>
    simp only [exec, execKeyEq]
    split
    · exact .inr ⟨s.op1, s.op2, s.pend, [], by simp⟩
    · split
      · exact .inr ⟨_, _, _, _, rfl⟩
      · unfold compute
        rcases narrow_cases s.cfg (mathResult ‹_› s.op1 s.op2) with ⟨r, h⟩ | h <;> rw [h]
        · exact .inr ⟨_, _, _, _, rfl⟩
        · exact .inl rfl
  all_goals exact absurd hi (by simp [keyList, keyInstrs])

theorem decodeKey_mem_keyList (k : BitVec 4) : decodeKey k ∈ keyList := by
  revert k; decide

/-! ### The display bus -/

/-- The three fields of the word of a display write. -/
theorem lcdWord_fields : ∀ (rs : Bool) (b : Byte), (lcdWord ⟨rs, b⟩).getLsbD 8 = false ∧
    (lcdWord ⟨rs, b⟩).getLsbD 9 = rs ∧ (lcdWord ⟨rs, b⟩).extractLsb' 0 8 = b := by decide

/-- The LCDW decoder with its bit numbers: `RW` is bit 8, `RS` is bit 9. -/
theorem decodeLcdw_eq (cfg : Config) (w : BitVec 10) :
    decodeLcdw cfg w =
      if w.getLsbD 8 then .error .readWord
      else if w.getLsbD 9 then .ok (.lcdData (w.extractLsb' 0 8))
      else if w.extractLsb' 0 8 = cfg.cmdFuncset then .ok .lcdFuncset
      else if w.extractLsb' 0 8 = cfg.cmdDispon then .ok .lcdDispon
      else if w.extractLsb' 0 8 = cfg.cmdClear then .ok .lcdClear
      else if w.extractLsb' 0 8 = cfg.cmdEntry then .ok .lcdEntry
      else .error .otherCommand := rfl

/-- A display instruction is one edge of its bus write. -/
theorem exec_writesWord (i : Instr) (w : LcdWrite) (s : State) (h : writesWord s.cfg i w) :
    exec i s = .next (lcdWrite w.rs w.byte s) := by
  rcases h with ⟨h1, h2⟩ | ⟨h1, h2⟩
  · simp only [displayCommands, List.mem_cons, List.not_mem_nil, or_false, Prod.mk.injEq] at h2
    rcases h2 with h | h | h | h <;> obtain ⟨rfl, h⟩ := h <;> rw [h1, h] <;> rfl
  · rw [h2, h1]; rfl

/-- A word that decodes as a display instruction is the word that the instruction writes. -/
theorem writesWord_of_decodeLcdw (cfg : Config) (w : LcdWrite) (i : Instr)
    (h : decodeLcdw cfg (lcdWord w) = .ok i) : writesWord cfg i w := by
  obtain ⟨f8, f9, fd⟩ := lcdWord_fields w.rs w.byte
  simp only [decodeLcdw_eq, f8, f9, fd] at h
  unfold writesWord
  cases hr : w.rs
  · simp only [hr, Bool.false_eq_true, if_false] at h
    left; refine ⟨rfl, ?_⟩
    split at h
    · cases h; simp [displayCommands, *]
    split at h
    · cases h; simp [displayCommands, *]
    split at h
    · cases h; simp [displayCommands, *]
    split at h
    · cases h; simp [displayCommands, *]
    · cases h
  · simp [hr] at h; right; exact ⟨rfl, h.symm⟩

/-- The five things an edge of a bus write can do. -/
theorem lcdWrite_cases (rs : Bool) (v : Byte) (s : State) :
    (s.lph = .idle ∧ lcdWrite rs v s =
      { s with lcdRs := rs, lcdRw := false, lcdD := v, lph := .setup, dly := s.cfg.cycles s.cfg.tES }) ∨
    (s.lph ≠ .idle ∧ 2 ≤ s.dly ∧ lcdWrite rs v s = countDown s) ∨
    (s.lph = .setup ∧ s.dly ≤ 1 ∧ lcdWrite rs v s =
      { s with lcdE := true, lph := .pulse, dly := s.cfg.cycles s.cfg.tEW }) ∨
    (s.lph = .pulse ∧ s.dly ≤ 1 ∧ lcdWrite rs v s =
      { s with lcdE := false, trace := s.trace ++ [⟨rs, v⟩], lph := .hold, dly := s.cfg.cycles s.cfg.tEH }) ∨
    (s.lph = .hold ∧ s.dly ≤ 1 ∧ lcdWrite rs v s = { s with lph := .idle, dly := 0 }) := by
  unfold lcdWrite
  cases hl : s.lph <;> by_cases hd : s.dly ≤ 1 <;> simp [expired, hd]
  all_goals omega

/-! ### The matrix -/

/-- An observation writes the record of the switches and moves on in the environment's schedule. -/
theorem observeMatrix_shape (s : State) :
    ∃ m ks n, observeMatrix s = { s with closed := m, keys := ks, draws := n } := by
  unfold observeMatrix; split <;> exact ⟨_, _, _, rfl⟩

/-- With one row driven, the column lines are the complement of that row of the matrix. -/
theorem colLines_rowPattern (r : BitVec 2) (m : BitVec 16) : colLines (rowPattern r) m = ~~~ matrixRow m r.toNat := by
  have : r = 0 ∨ r = 1 ∨ r = 2 ∨ r = 3 := by revert r; decide
  rcases this with h | h | h | h <;> subst h <;> simp [colLines, pulledLow, rowPattern]

/-- The key map is read at the position itself, `p = 4r + c`. -/
theorem keyIndex_eq (cfg : Config) (p : BitVec 4) : keyIndex cfg p = p.toNat := by
  have h : ∀ p : BitVec 4, 4 * (posRow p).toNat + (posCol p).toNat = p.toNat := by decide
  exact h p

theorem keyAt_eq (cfg : Config) (p : BitVec 4) : keyAt cfg p = cfg.keymap[p.toNat]'p.isLt := by
  simp only [keyAt, keyIndex_eq]

/-- With four rows, the row after one without a key is one more, modulo four. -/
@[simp] theorem nextRow_eq (s : State) : nextRow s = s.row + 1 := by
  have h : ∀ r : BitVec 2, (if r.toNat + 1 < 4 then r + 1 else 0) = r + 1 := by decide
  exact h s.row

/-- While the shown text is undefined, nothing is said of the visible display; the first line otherwise shows it. -/
theorem visibleDisplay_isSome (cfg : Config) (trace : List LcdWrite) :
    (visibleDisplay cfg trace).isSome = (shownText cfg trace).isSome := by
  simp [visibleDisplay]

theorem exec_rowSelInstr (r : BitVec 2) (s : State) : exec (rowSelInstr r) s = .next (selectRow r s) := by
  have : r = 0 ∨ r = 1 ∨ r = 2 ∨ r = 3 := by revert r; decide
  rcases this with h | h | h | h <;> subst h <;> rfl

/-! ### Rendering -/

/-- The echoes and results queued are sixteen characters only. -/
theorem code_mem_chr (cfg : Config) (g : Glyph) : cfg.code g ∈ cfg.chr.toList := by
  simp [Config.code]

end Sys2Proof.Machine
end

