-- ==== Sys2Proof/Laws/PerInstr.lean ====
section
/-! SUPPORT. The encoder against the mask and match columns of spec/opcode_table.json, one lemma per instruction. -/

namespace Sys2Proof.Laws.TableRow

/-- Rule R88: at the reference codes, the word of the instruction matches its row: the row's fixed bits are as listed,
and the bits that the row leaves free are the operand's. -/
def Statement (i : Instr) : Prop :=
  (encode Config.reference i).toNat &&& (tableRow i).mask = (tableRow i).bits ∧
  ∀ c, i = .lcdData c → (encode Config.reference i).toNat &&& (0x3FF - (tableRow i).mask) = c.toNat

theorem key0 : Statement .key0 := ⟨by decide, by simp⟩

theorem key1 : Statement .key1 := ⟨by decide, by simp⟩

theorem key2 : Statement .key2 := ⟨by decide, by simp⟩

theorem key3 : Statement .key3 := ⟨by decide, by simp⟩

theorem key4 : Statement .key4 := ⟨by decide, by simp⟩

theorem key5 : Statement .key5 := ⟨by decide, by simp⟩

theorem key6 : Statement .key6 := ⟨by decide, by simp⟩

theorem key7 : Statement .key7 := ⟨by decide, by simp⟩

theorem key8 : Statement .key8 := ⟨by decide, by simp⟩

theorem key9 : Statement .key9 := ⟨by decide, by simp⟩

theorem keyClr : Statement .keyClr := ⟨by decide, by simp⟩

theorem keyEq : Statement .keyEq := ⟨by decide, by simp⟩

theorem keyAdd : Statement .keyAdd := ⟨by decide, by simp⟩

theorem keySub : Statement .keySub := ⟨by decide, by simp⟩

theorem keyMul : Statement .keyMul := ⟨by decide, by simp⟩

theorem keyDiv : Statement .keyDiv := ⟨by decide, by simp⟩

theorem rowSel0 : Statement .rowSel0 := ⟨by decide, by simp⟩

theorem rowSel1 : Statement .rowSel1 := ⟨by decide, by simp⟩

theorem rowSel2 : Statement .rowSel2 := ⟨by decide, by simp⟩

theorem rowSel3 : Statement .rowSel3 := ⟨by decide, by simp⟩

theorem lcdFuncset : Statement .lcdFuncset := ⟨by decide, by simp⟩

theorem lcdDispon : Statement .lcdDispon := ⟨by decide, by simp⟩

theorem lcdClear : Statement .lcdClear := ⟨by decide, by simp⟩

theorem lcdEntry : Statement .lcdEntry := ⟨by decide, by simp⟩

theorem lcdData (c : Byte) : Statement (.lcdData c) := by
  have h : ∀ b : Byte, (lcdWord ⟨true, b⟩).toNat &&& 0x300 = 0x200 ∧ (lcdWord ⟨true, b⟩).toNat &&& 0xFF = b.toNat := by
    decide
  refine ⟨(h c).1, ?_⟩
  intro d hd
  cases hd
  exact (h c).2

end Sys2Proof.Laws.TableRow
end

