-- ==== Sys2Proof/Laws/Step.lean ====
section
/-! SUPPORT. What one clock edge can do, phase by phase and in one inversion lemma, and how runs of edges compose. -/

namespace Sys2Proof.Machine

theorem step_of_released (s : State) (h : s.rstSched = []) : step s = clockEdge s := by simp [step, h]

/-! ### Runs -/

theorem steps_one (s t : State) (h : step s = .next t) : steps 1 s = .next t := by simp [steps, h]

theorem steps_add (m n : Nat) : ∀ s t, steps m s = .next t → steps (m + n) s = steps n t := by
  induction m with
  | zero => intro s t h; simp [steps] at h; subst h; simp
  | succ m ih =>
    intro s t h
    rw [Nat.add_right_comm]
    simp only [steps] at h ⊢
    cases hu : step s with
    | next u => rw [hu] at h; exact ih _ _ h
    | fault u => rw [hu] at h; cases h
    | refused u => rw [hu] at h; cases h

/-- Where every edge of a delay counts down and the last one leads to `t`, the whole delay leads to `t`. -/
theorem steps_delay (n : Nat) (t : State) (P : State → Prop)
    (hrun : ∀ u, P u → 2 ≤ u.dly → step u = .next (countDown u) ∧ P (countDown u)) :
    ∀ s, P s → s.dly = n → (∀ d ≤ 1, step { s with dly := d } = .next t) → steps (max 1 n) s = .next t := by
  induction n with
  | zero =>
    intro s _ hn hend
    have e : ({ s with dly := 0 } : State) = s := by cases s; simp_all
    have h1 := hend 0 (by omega)
    rw [e] at h1
    exact steps_one s t h1
  | succ n ih =>
    intro s hs hn hend
    by_cases h0 : n = 0
    · subst h0
      have e : ({ s with dly := 1 } : State) = s := by cases s; simp_all
      have h1 := hend 1 (by omega)
      rw [e] at h1
      exact steps_one s t h1
    · have h1 := hrun s hs (by omega)
      rw [show max 1 (n + 1) = 1 + max 1 n by omega, steps_add _ _ _ _ (steps_one _ _ h1.1)]
      exact ih (countDown s) h1.2 (by simp [hn]) hend

/-! ### The edges, by phase -/

theorem step_boot_wait (s : State) (h0 : s.rstSched = []) (h1 : s.ph = .boot) (h2 : s.lph = .idle ∧ s.dly ≠ 0) :
    step s = .next (countDown s) := by
  rw [step_of_released s h0]; simp only [clockEdge, nextInstr, h1]; rw [if_pos h2]; simp [sequencerCycle, h1]

/-- The command `boot_i` writes the entry `boot_i` of the initialisation sequence. -/
theorem bootInstr_writesWord (s : State) :
    ∃ w, writesWord s.cfg (bootInstr s.bootI) w ∧ (initCommands s.cfg)[s.bootI.toNat]? = some w := by
  generalize s.bootI = r
  have : r = 0 ∨ r = 1 ∨ r = 2 ∨ r = 3 := by revert r; decide
  rcases this with h | h | h | h <;> subst h
  · exact ⟨⟨false, s.cfg.cmdFuncset⟩, .inl ⟨rfl, by simp [displayCommands, bootInstr]⟩, rfl⟩
  · exact ⟨⟨false, s.cfg.cmdDispon⟩, .inl ⟨rfl, by simp [displayCommands, bootInstr]⟩, rfl⟩
  · exact ⟨⟨false, s.cfg.cmdClear⟩, .inl ⟨rfl, by simp [displayCommands, bootInstr]⟩, rfl⟩
  · exact ⟨⟨false, s.cfg.cmdEntry⟩, .inl ⟨rfl, by simp [displayCommands, bootInstr]⟩, rfl⟩

theorem step_boot_write (s : State) (h0 : s.rstSched = []) (h1 : s.ph = .boot) (h2 : ¬ (s.lph = .idle ∧ s.dly ≠ 0)) :
    ∃ w, (initCommands s.cfg)[s.bootI.toNat]? = some w ∧
      step s = .next (bootAdvance (lcdWrite w.rs w.byte s)) := by
  obtain ⟨w, hw, hi⟩ := bootInstr_writesWord s
  refine ⟨w, hi, ?_⟩
  have hp : (lcdWrite w.rs w.byte s).ph = .boot := by simp [h1]
  rw [step_of_released s h0]; simp only [clockEdge, nextInstr, h1]; rw [if_neg h2]; dsimp only
  rw [exec_writesWord _ w s hw]
  simp only [onNext, afterInstr, hp]

theorem step_drive (s : State) (h0 : s.rstSched = []) (h1 : s.ph = .drive) :
    step s = .next { s with
      rowPins := rowPattern s.row, rowTrace := s.rowTrace ++ [rowPattern s.row], ph := .stab,
      dly := s.cfg.cycles s.cfg.tStab } := by
  rw [step_of_released s h0]; simp only [clockEdge, nextInstr, h1, exec_rowSelInstr]
  simp [onNext, afterInstr, selectRow, h1]

theorem step_stab (s : State) (h0 : s.rstSched = []) (h1 : s.ph = .stab) :
    step s = .next (if expired s then { s with ph := .sample, dly := 0 } else countDown s) := by
  rw [step_of_released s h0]; simp [clockEdge, nextInstr, h1, sequencerCycle]

theorem step_sample (s : State) (h0 : s.rstSched = []) (h1 : s.ph = .sample) :
    step s = .next (afterSample (observeMatrix s)) := by
  rw [step_of_released s h0]; simp [clockEdge, nextInstr, h1, sequencerCycle]

theorem step_hold (s : State) (h0 : s.rstSched = []) (h1 : s.ph = .hold) :
    step s = .next (afterHoldSample (observeMatrix s)) := by
  rw [step_of_released s h0]; simp [clockEdge, nextInstr, h1, sequencerCycle]

theorem step_settle (s : State) (h0 : s.rstSched = []) (h1 : s.ph = .settle) :
    step s = .next (if expired s then { s with ph := .dispatch, kev := true, dly := 0 } else countDown s) := by
  rw [step_of_released s h0]; simp [clockEdge, nextInstr, h1, sequencerCycle]

/-- An edge that performs the write at the front of `txq`. -/
theorem step_drain (s : State) (w : LcdWrite) (rest : List LcdWrite) (h0 : s.rstSched = []) (h1 : s.ph = .dispatch)
    (h2 : s.kev = false) (h3 : s.txq = w :: rest) : step s = .next (popDone (lcdWrite w.rs w.byte s)) := by
  rw [step_of_released s h0]
  unfold clockEdge nextInstr
  simp only [h1, h2, h3]
  cases hd : decodeLcdw s.cfg (lcdWord w) with
  | ok i =>
    dsimp only [Except.toOption]
    rw [if_neg (by simp)]; dsimp only; rw [exec_writesWord i w s (writesWord_of_decodeLcdw _ _ _ hd)]
    simp [onNext, afterInstr, h1, h2]
  | error e => rw [if_neg (by simp)]; simp [Except.toOption, sequencerCycle, h1, drainCycle, h3]

theorem step_leave_dispatch (s : State) (h0 : s.rstSched = []) (h1 : s.ph = .dispatch) (h2 : s.kev = false)
    (h3 : s.txq = []) : step s = .next { s with row := 0, ph := .drive } := by
  rw [step_of_released s h0]; simp [clockEdge, nextInstr, h1, h2, h3, sequencerCycle, drainCycle]

/-- Everything a clock edge with `rst_n` high can do, guards included. -/
theorem step_cases (s : State) (h0 : s.rstSched = []) (t : State) (h : step s = .next t) :
    (s.ph = .boot ∧ s.lph = .idle ∧ s.dly ≠ 0 ∧ t = countDown s) ∨
    (s.ph = .boot ∧ ¬ (s.lph = .idle ∧ s.dly ≠ 0) ∧ ∃ w, (initCommands s.cfg)[s.bootI.toNat]? = some w ∧
      t = bootAdvance (lcdWrite w.rs w.byte s)) ∨
    (s.ph = .drive ∧ t = { s with
      rowPins := rowPattern s.row, rowTrace := s.rowTrace ++ [rowPattern s.row], ph := .stab,
      dly := s.cfg.cycles s.cfg.tStab }) ∨
    (s.ph = .stab ∧ 2 ≤ s.dly ∧ t = countDown s) ∨
    (s.ph = .stab ∧ s.dly ≤ 1 ∧ t = { s with ph := .sample, dly := 0 }) ∨
    (s.ph = .sample ∧ t = afterSample (observeMatrix s)) ∨
    (s.ph = .hold ∧ t = afterHoldSample (observeMatrix s)) ∨
    (s.ph = .settle ∧ 2 ≤ s.dly ∧ t = countDown s) ∨
    (s.ph = .settle ∧ s.dly ≤ 1 ∧ t = { s with ph := .dispatch, kev := true, dly := 0 }) ∨
    (s.ph = .dispatch ∧ s.kev = true ∧ ∃ a b p ws,
      exec (decodeKey s.kcode) s = .next { s with op1 := a, op2 := b, pend := p, txq := s.txq ++ ws } ∧
      t = { s with op1 := a, op2 := b, pend := p, txq := s.txq ++ ws, kev := false }) ∨
    (s.ph = .dispatch ∧ s.kev = false ∧ s.txq = [] ∧ t = { s with row := 0, ph := .drive }) ∨
    (s.ph = .dispatch ∧ s.kev = false ∧ ∃ w rest, s.txq = w :: rest ∧
      t = popDone (lcdWrite w.rs w.byte s)) := by
  cases hp : s.ph with
  | boot =>
    by_cases h2 : s.lph = .idle ∧ s.dly ≠ 0
    · rw [step_boot_wait s h0 hp h2] at h; cases h; simp [h2]
    · obtain ⟨w, a, b⟩ := step_boot_write s h0 hp h2
      rw [b] at h; cases h; right; left; exact ⟨rfl, h2, w, a, rfl⟩
  | drive => rw [step_drive s h0 hp] at h; cases h; simp
  | stab =>
    rw [step_stab s h0 hp] at h
    by_cases hd : s.dly ≤ 1
    · simp [expired, hd] at h; subst h; simp [hd]
    · simp [expired, hd] at h; subst h; simp; omega
  | settle =>
    rw [step_settle s h0 hp] at h
    by_cases hd : s.dly ≤ 1
    · simp [expired, hd] at h; subst h; simp [hd]
    · simp [expired, hd] at h; subst h; simp; omega
  | sample => rw [step_sample s h0 hp] at h; cases h; simp
  | hold => rw [step_hold s h0 hp] at h; cases h; simp
  | dispatch =>
    cases hk : s.kev with
    | true =>
      rw [step_of_released s h0] at h; simp only [clockEdge, nextInstr, hp, hk, if_true] at h
      rcases exec_key_shape _ (decodeKey_mem_keyList s.kcode) s with h2 | ⟨a, b, p, ws, h2⟩ <;> rw [h2] at h
      · cases h
      · simp [onNext, afterInstr, hp, hk] at h
        simp only [reduceCtorEq, false_and, false_or, true_and, or_false]
        exact ⟨a, b, p, ws, by rw [h2, hk, hp], h.symm⟩
    | false =>
      cases hq : s.txq with
      | nil => rw [step_leave_dispatch s h0 hp hk hq] at h; cases h; simp [hk, hq]
      | cons w rest =>
        rw [step_drain s w rest h0 hp hk hq] at h; cases h
        simp

end Sys2Proof.Machine
end

