-- ==== Sys2Proof/Tests/Slice0.lean ====
section
/-! SUPPORT. Tests with expected values from the spec (95_test_vectors.md and the examples of the rules), the smoke test
of WellFormed, and for each obligation with hypotheses a concrete input that meets them. -/

namespace Sys2Proof.Tests
open Sys2Proof Sys2Proof.Machine

/-! ### WellFormed -/

/-- The letter `A` is none of the sixteen characters of rule R82. -/
theorem test_wellFormed_refuses_letter_A : (Instr.lcdData 0x41).wellFormed Config.reference = false := by decide

theorem test_wellFormed_takes_letter_E : (Instr.lcdData 0x45).wellFormed Config.reference = true := by decide

/-! ### Decoding: words written out from rules R72, R74, R80 and R81 -/

theorem test_decode_digit_keys :
    decode Config.reference (.key 0b0000#4) = .ok .key0 ∧ decode Config.reference (.key 0b0001#4) = .ok .key1 ∧
    decode Config.reference (.key 0b0010#4) = .ok .key2 ∧ decode Config.reference (.key 0b0011#4) = .ok .key3 ∧
    decode Config.reference (.key 0b0100#4) = .ok .key4 ∧ decode Config.reference (.key 0b0101#4) = .ok .key5 ∧
    decode Config.reference (.key 0b0110#4) = .ok .key6 ∧ decode Config.reference (.key 0b0111#4) = .ok .key7 ∧
    decode Config.reference (.key 0b1000#4) = .ok .key8 ∧ decode Config.reference (.key 0b1001#4) = .ok .key9 :=
  ⟨rfl, rfl, rfl, rfl, rfl, rfl, rfl, rfl, rfl, rfl⟩

theorem test_decode_other_keys :
    decode Config.reference (.key 0b1010#4) = .ok .keyClr ∧ decode Config.reference (.key 0b1011#4) = .ok .keyEq ∧
    decode Config.reference (.key 0b1100#4) = .ok .keyAdd ∧ decode Config.reference (.key 0b1101#4) = .ok .keySub ∧
    decode Config.reference (.key 0b1110#4) = .ok .keyMul ∧ decode Config.reference (.key 0b1111#4) = .ok .keyDiv :=
  ⟨rfl, rfl, rfl, rfl, rfl, rfl⟩

theorem test_decode_row_selects :
    decode Config.reference (.rowsel 0b1110#4) = .ok .rowSel0 ∧
    decode Config.reference (.rowsel 0b1101#4) = .ok .rowSel1 ∧
    decode Config.reference (.rowsel 0b1011#4) = .ok .rowSel2 ∧
    decode Config.reference (.rowsel 0b0111#4) = .ok .rowSel3 := ⟨rfl, rfl, rfl, rfl⟩

/-- RS, RW, then the eight data bits. -/
theorem test_decode_display_words :
    decode Config.reference (.lcdw 0b0000111000#10) = .ok .lcdFuncset ∧
    decode Config.reference (.lcdw 0b0000001100#10) = .ok .lcdDispon ∧
    decode Config.reference (.lcdw 0b0000000001#10) = .ok .lcdClear ∧
    decode Config.reference (.lcdw 0b0000000110#10) = .ok .lcdEntry ∧
    decode Config.reference (.lcdw 0b1000110111#10) = .ok (.lcdData 0x37#8) := ⟨rfl, rfl, rfl, rfl, rfl⟩

/-- Rule R83: the idle pattern, two low rows, `RW` = 1, a command KPCALC never emits. -/
theorem test_decode_rejects :
    decode Config.reference (.rowsel 0b1111#4) = .error .rowPattern ∧
    decode Config.reference (.rowsel 0b1001#4) = .error .rowPattern ∧
    decode Config.reference (.lcdw 0b0100000001#10) = .error .readWord ∧
    decode Config.reference (.lcdw 0b0000000010#10) = .error .otherCommand ∧
    decodeBytes Config.reference [0x17#8] = .error .highBits ∧
    decodeBytes Config.reference [0x38#8, 0x04#8] = .error .highBits ∧
    decodeBytes Config.reference [] = .error .length := ⟨rfl, rfl, rfl, rfl, rfl, rfl, rfl⟩

theorem test_table_words :
    decodeTableWord 8 0xB = some .keyEq ∧ decodeTableWord 16 0x001 = some .lcdClear ∧
    decodeTableWord 16 0x2FF = some (.lcdData 0xFF#8) ∧ decodeTableWord 16 0x100 = none := ⟨rfl, rfl, rfl, rfl⟩

/-! ### Positions, samples, the key map (D-ENC-1 to D-ENC-14) -/

theorem test_positions : posOf 2 1 = 9#4 ∧ posOf 3 3 = 15#4 ∧ posOf 0 0 = 0#4 := by decide

theorem test_samples :
    firstLow 0b1111#4 = none ∧ firstLow 0b1001#4 = some 1 ∧ firstLow 0b0000#4 = some 0 ∧ firstLow 0b0111#4 = some 3 := by
  decide

theorem test_key_map :
    keyAt Config.reference 9#4 = 0x2#4 ∧ keyAt Config.reference 15#4 = 0xC#4 ∧ keyAt Config.reference 0#4 = 0x7#4 ∧
    keyAt Config.reference 12#4 = 0xA#4 := by decide

/-- D-SCN-3: (0,3) and (1,0) closed, row 0 driven; D-SCN-2: (2,1) closed, row 2 driven. -/
theorem test_column_lines :
    colLines (rowPattern 0) 0x0018#16 = 0b0111#4 ∧ colLines (rowPattern 2) 0x0200#16 = 0b1101#4 ∧
    colLines (rowPattern 1) 0x0200#16 = 0b1111#4 ∧ colLines 0b1111#4 0xFFFF#16 = 0b1111#4 := by decide

/-! ### Keys: the Calculator State after, and the LCDW words queued -/

/-- A state in `PH_DISPATCH` with the given Calculator State and nothing queued. -/
def keyed (a b : Int) (p : Option Op) : State :=
  { State.reset with op1 := a, op2 := b, pend := p, ph := .dispatch, kev := true, bootI := 3, txq := [] }

/-- What an instruction leaves in the Calculator State and in the queue. -/
def after (i : Instr) (s : State) : Option (Calc × List Nat) :=
  match exec i s with
  | .next t    => some (t.calcState, t.txq.map fun w => (lcdWord w).toNat)
  | .fault _   => none
  | .refused _ => none

theorem test_key0 : after .key0 (keyed 7 0 none) = some (⟨70, 0, none⟩, [0x230]) := by decide
theorem test_key1 : after .key1 (keyed 0 0 none) = some (⟨1, 0, none⟩, [0x231]) := by decide
theorem test_key2 : after .key2 (keyed 78 0 (some .add)) = some (⟨78, 2, some .add⟩, [0x232]) := by decide
theorem test_key2_extends : after .key2 (keyed 5 3 (some .mul)) = some (⟨5, 32, some .mul⟩, [0x232]) := by decide
theorem test_key3 : after .key3 (keyed 5 0 (some .add)) = some (⟨5, 3, some .add⟩, [0x233]) := by decide
theorem test_key4_negative : after .key4 (keyed (-6) 0 none) = some (⟨-56, 0, none⟩, [0x234]) := by decide
theorem test_key5_wraps : after .key5 (keyed 6553 0 none) = some (⟨-1, 0, none⟩, [0x235]) := by decide
theorem test_key6_wraps_to_zero : after .key6 (keyed 6553 0 none) = some (⟨0, 0, none⟩, [0x236]) := by decide
theorem test_key7_largest : after .key7 (keyed 3276 0 none) = some (⟨32767, 0, none⟩, [0x237]) := by decide
theorem test_key8_wraps : after .key8 (keyed 3276 0 none) = some (⟨-32768, 0, none⟩, [0x238]) := by decide
theorem test_key8 : after .key8 (keyed 7 0 none) = some (⟨78, 0, none⟩, [0x238]) := by decide
theorem test_key9 : after .key9 (keyed 0 0 none) = some (⟨9, 0, none⟩, [0x239]) := by decide
theorem test_keyAdd_twice : after .keyAdd (keyed 5 0 (some .add)) = some (⟨5, 0, some .add⟩, [0x22B]) := by decide
theorem test_keySub : after .keySub (keyed 0 0 none) = some (⟨0, 0, some .sub⟩, [0x22D]) := by decide
theorem test_keyMul_replaces : after .keyMul (keyed 5 3 (some .add)) = some (⟨5, 3, some .mul⟩, [0x22A]) := by decide
theorem test_keyDiv : after .keyDiv (keyed 9 0 none) = some (⟨9, 0, some .div⟩, [0x22F]) := by decide
theorem test_keyClr : after .keyClr (keyed 12 3 (some .add)) = some (⟨0, 0, none⟩, [0x001]) := by decide

/-- D-EQ-1, D-EQ-5. -/
theorem test_keyEq_without_result :
    after .keyEq (keyed 12 0 none) = some (⟨12, 0, none⟩, []) ∧
    after .keyEq (keyed 9 0 (some .div)) = some (⟨0, 0, none⟩, [0x245, 0x272, 0x272]) := by decide

/-- D-EQ-2, D-EQ-4, D-EQ-7. -/
theorem test_keyEq_with_result :
    after .keyEq (keyed 78 2 (some .add)) = some (⟨0, 0, none⟩, [0x001, 0x238, 0x230]) ∧
    after .keyEq (keyed 5 0 (some .mul)) = some (⟨0, 0, none⟩, [0x001, 0x230]) ∧
    after .keyEq (keyed 12 45 (some .sub)) = some (⟨0, 0, none⟩, [0x001, 0x22D, 0x233, 0x233]) := by decide

/-- The value of a computation that completes. -/
def computed (op : Op) (a b : Int) : Option Int := (compute Config.reference op a b).toOption

/-- D-AR-3, D-AR-8, D-AR-12, D-AR-13. -/
theorem test_compute_wraps :
    computed .add 32767 1 = some (-32768) ∧ computed .sub (-32768) 1 = some 32767 ∧
    computed .mul 300 300 = some 24464 ∧ computed .mul 200 200 = some (-25536) := by decide

/-- D-AR-19, D-AR-21, D-AR-22, D-AR-25. -/
theorem test_compute_divides :
    computed .div 100 7 = some 14 ∧ computed .div (-7) 2 = some (-3) ∧ computed .div 7 (-2) = some (-3) ∧
    computed .div (-32768) (-1) = some (-32768) := by decide

/-- P7: with `OVF_MODE` = `fault` the Equals step is a fault. -/
theorem test_fault_mode :
    exec .keyEq { keyed 300 300 (some .mul) with cfg := { Config.reference with ovf := .fault } } = .fault .overflow :=
  rfl

/-! ### Row selects (D-ENC-4) -/

theorem test_rowSel0 : exec .rowSel0 State.reset =
    .next { State.reset with row := 0, rowPins := 0b1110, rowTrace := [0b1110] } := rfl
theorem test_rowSel1 : exec .rowSel1 State.reset =
    .next { State.reset with row := 1, rowPins := 0b1101, rowTrace := [0b1101] } := rfl
theorem test_rowSel2 : exec .rowSel2 State.reset =
    .next { State.reset with row := 2, rowPins := 0b1011, rowTrace := [0b1011] } := rfl
theorem test_rowSel3 : exec .rowSel3 State.reset =
    .next { State.reset with row := 3, rowPins := 0b0111, rowTrace := [0b0111] } := rfl

/-! ### The display bus (D-LCD-1, D-LCD-2, rules R106 to R109) -/

/-- The bus lines `(RS, RW, D, E)` and the trace of a state. -/
def bus (r : Result) : Option (Bool × Bool × Nat × Bool × List Nat) :=
  match r with
  | .next t    => some (t.lcdRs, t.lcdRw, t.lcdD.toNat, t.lcdE, t.trace.map fun w => (lcdWord w).toNat)
  | .fault _   => none
  | .refused _ => none

theorem test_lcdData_starts :
    bus (exec (.lcdData 0x37) State.reset) = some (true, false, 0x37, false, []) := by decide
theorem test_lcdData_accepted :
    bus (execTimes 3 (.lcdData 0x37) State.reset) = some (true, false, 0x37, false, [0x237]) := by decide
theorem test_lcdClear_pulse :
    bus (execTimes 2 .lcdClear State.reset) = some (false, false, 0x01, true, []) := by decide
theorem test_lcdFuncset : bus (execTimes 4 .lcdFuncset State.reset) = some (false, false, 0x38, false, [0x038]) := by
  decide
theorem test_lcdDispon : bus (execTimes 4 .lcdDispon State.reset) = some (false, false, 0x0C, false, [0x00C]) := by
  decide
theorem test_lcdEntry : bus (execTimes 4 .lcdEntry State.reset) = some (false, false, 0x06, false, [0x006]) := by
  decide

/-! ### The step -/

/-- A key word placed by `withFetchWord` runs as a delivered key event. -/
theorem test_step_runs_key :
    step (State.reset.withFetchWord 8 0x7) = .next { State.reset.withFetchWord 8 0x7 with
      op1 := 7, txq := [⟨true, 0x37⟩], kev := false } := rfl

/-- A display word placed by `withFetchWord` starts its transaction. -/
theorem test_step_runs_display_word :
    bus (step (State.reset.withFetchWord 16 0x20C)) = some (true, false, 0x0C, false, []) := rfl

/-- D-SCN-2: row 2 sampled with (2,1) closed. -/
theorem test_step_sample_finds_key :
    step { State.reset with ph := .sample, row := 2, rowPins := 0b1011, keys := [0x0200], txq := [], dly := 0 } =
      .next { State.reset with
        ph := .hold, row := 2, rowPins := 0b1011, keys := [], txq := [], dly := 0, closed := 0x0200, kpos := 0b1001,
        kcode := 0x2 } := rfl

/-- D-LCD-6, D-LCD-8, D-EQ-8: after a clear; the seventeenth character; a new entry after a result. -/
theorem test_shown_text :
    shownText Config.reference (initCommands Config.reference) = some [] ∧
    shownText Config.reference (initCommands Config.reference ++ List.replicate 16 ⟨true, 0x31⟩) =
      some (List.replicate 16 0x31#8) ∧
    shownText Config.reference (initCommands Config.reference ++ List.replicate 17 ⟨true, 0x31⟩) = none := by decide

/-- R111 with R6: two lines; the second is never written (R55). -/
theorem test_visible_display :
    visibleDisplay { Config.reference with lcdCols := 3 } [⟨false, 0x01⟩, ⟨true, 0x38⟩, ⟨true, 0x30⟩] =
      some [[some 0x38#8, some 0x30#8, none], [none, none, none]] ∧
    visibleDisplay Config.reference [⟨true, 0x38⟩] = none := by decide

/-- R193: the row after a sample without a key. -/
theorem test_next_row :
    nextRow { State.reset with row := 0 } = 1 ∧ nextRow { State.reset with row := 2 } = 3 ∧
    nextRow { State.reset with row := 3 } = 0 := by decide

/-! ### Witnesses: for each obligation with hypotheses, an input that meets them -/

/-- The reference parameters with `OVF_MODE` = fault. -/
def faultCfg : Config := { Config.reference with ovf := .fault }

theorem witness_DecodeEncodeAgree : Config.reference.commandsDistinct = true := by decide

theorem witness_EncodeDecodeAgree : decode Config.reference (.lcdw 0b1011111111#10) = .ok (.lcdData 0xFF#8) := rfl

theorem witness_UnusedWordsRejected :
    (∀ r, (0b1111#4 : BitVec 4) ≠ rowPattern r) ∧ (∀ r, (0b0000#4 : BitVec 4) ≠ rowPattern r) ∧
    (0b0100000000#10 : BitVec 10).getLsbD 8 = true ∧
    (0x00#8 : Byte) ∉ [Config.reference.cmdFuncset, Config.reference.cmdDispon, Config.reference.cmdClear,
      Config.reference.cmdEntry] := by decide

theorem witness_KeyOperandsFromCode :
    (9#4 : BitVec 4).toNat < 10 ∧ classOf 0xC#4 = .operator ∧ classOf 0xF#4 = .operator ∧ classOf 0xA#4 = .clear ∧
    classOf 0xB#4 = .equals := by decide

theorem witness_PendingOperatorBits : (0b011#3 : BitVec 3).getLsbD 2 = false := by decide

theorem witness_WrapIsTheRepresentative : 1 ≤ Config.reference.w ∧ (-32768 : Int) = wrapW Config.reference 32768 := by
  decide

theorem witness_ComputeWraps :
    Config.reference.ovf = .wrap ∧ 1 ≤ Config.reference.w ∧
    inRange Config.reference (mathResult .sub (-32767) 1) := by decide

theorem witness_DivisionTruncates : (-1 : Int) ≠ 0 ∧ Config.reference.ovf = .wrap := by decide

theorem witness_RenderedLengthBound :
    2 ≤ Config.reference.w ∧ inRange Config.reference (-32768) ∧ inRange Config.reference 32767 := by decide

theorem witness_DigitKeysAccumulate :
    (Instr.key0, (0 : Fin 10)) ∈ digitKeys ∧ (Instr.key9, (9 : Fin 10)) ∈ digitKeys ∧
    (keyed 0 0 none).cfg.ovf = .wrap ∧ (keyed 0 0 none).pend = none ∧ (keyed 0 0 (some .div)).pend = some .div ∧
    (keyed 0 0 none).cfg.chr = asciiCodes := by decide

theorem witness_DigitKeysUnderFaultMode :
    (Instr.key8, (8 : Fin 10)) ∈ digitKeys ∧ faultCfg.ovf = .fault ∧
    inRange faultCfg (3276 * 10 + 7) ∧ ¬ inRange faultCfg (3276 * 10 + 8) := by decide

theorem witness_DigitsReadPositionally :
    (keyed 0 0 none).cfg.ovf = .wrap ∧ 1 ≤ (keyed 0 0 none).cfg.w ∧ digitsValue [3, 2, 7, 6, 7] < 2 ^ (16 - 1) ∧
    (keyed 0 0 none).pend = none ∧ (keyed 0 0 none).op1 = 0 ∧ (keyed 5 0 (some .add)).pend = some .add ∧
    (keyed 5 0 (some .add)).op2 = 0 := by decide

theorem witness_OperatorKeysReplacePending :
    (Instr.keyAdd, Op.add) ∈ operatorKeys ∧ (Instr.keyDiv, Op.div) ∈ operatorKeys ∧
    (keyed 5 3 (some .add)).cfg.chr = asciiCodes := by decide

theorem witness_SecondOperatorReplacesFirst :
    (Instr.keyAdd, Op.add) ∈ operatorKeys ∧ (Instr.keyMul, Op.mul) ∈ operatorKeys ∧
    (keyed 5 0 none).cfg.ovf = .wrap ∧ 1 ≤ (keyed 5 0 none).cfg.w ∧ (keyed 5 0 none).op2 = 0 := by decide

theorem witness_EqualsWithNothingPendingIsNoOp : (keyed 12 0 none).pend = none := rfl

theorem witness_EqualsShowsResult :
    (keyed 9 0 (some .mul)).cfg.ovf = .wrap ∧ (keyed 9 0 (some .mul)).pend = some .mul ∧
    ¬ (Op.mul = .div ∧ (keyed 9 0 (some .mul)).op2 = 0) ∧
    ¬ (Op.div = .div ∧ (keyed 9 1 (some .div)).op2 = 0) := by decide

theorem witness_EqualsDivideByZero :
    (keyed 0 0 (some .div)).pend = some .div ∧ (keyed 0 0 (some .div)).op2 = 0 ∧
    (keyed 0 0 (some .div)).cfg.chr = asciiCodes := by decide

theorem witness_EqualsUnderFaultMode :
    faultCfg.ovf = .fault ∧ inRange faultCfg (mathResult .add 32766 1) ∧
    ¬ inRange faultCfg (mathResult .add 32767 1) ∧ (-32768 : Int) = -(2 ^ (faultCfg.w - 1)) ∧
    ¬ (Op.div = .div ∧ (-1 : Int) = 0) := by decide

theorem witness_CalculationShowsItsResult :
    (Instr.keyDiv, Op.div) ∈ operatorKeys ∧ (keyed 0 0 none).cfg.ovf = .wrap ∧ 1 ≤ (keyed 0 0 none).cfg.w ∧
    (keyed 0 0 none).calcState = Calc.zero ∧
    ¬ (Op.div = .div ∧ wrapW Config.reference (digitsValue [6, 5, 5, 3, 7]) = 0) := by decide

theorem witness_KeysFollowTheTable : tabled Config.reference := ⟨rfl, rfl, rfl⟩

theorem witness_KeyFrame :
    Instr.keyEq ∈ keyList ∧ exec .keyEq (keyed 12 0 none) = .next (keyed 12 0 none) ∧
    (keyed 12 0 none).cfg = (keyed 12 0 none).cfg ∧ (keyed 12 0 none).calcState = ⟨12, 0, none⟩ := ⟨by decide, rfl, rfl, rfl⟩

theorem witness_OnlyClearAndResultsClear :
    (⟨false, Config.reference.cmdClear⟩ : LcdWrite) ∈
      ([⟨false, 0x01⟩] : List LcdWrite).drop (keyed 0 0 none).txq.length ∧
    exec .keyClr (keyed 0 0 none) = .next { keyed 0 0 none with txq := [⟨false, 0x01⟩] } := ⟨by decide, rfl⟩

theorem witness_RowSelectsDrive :
    (Instr.rowSel0, (0 : BitVec 2)) ∈ rowSelects ∧ (Instr.rowSel3, (3 : BitVec 2)) ∈ rowSelects := by decide

theorem witness_RowLinesTakeFiveValues :
    step { State.reset with ph := .drive, row := 3 } = .next { State.reset with
      ph := .stab, row := 3, rowPins := 0b0111, rowTrace := [0b0111], dly := 10 } ∧
    step { State.reset with rstSched := [false], rowPins := 0b0111 } = .next State.reset := ⟨rfl, rfl⟩

/-- A state in the phase `l` of a display transaction, with the delay `n` running. -/
def onBus (l : LcdPhase) (n : Nat) : State :=
  { State.reset with ph := .dispatch, lph := l, dly := n, txq := [⟨true, 0x37⟩] }

theorem witness_DisplayInstructionEdges :
    writesWord Config.reference (.lcdData 0x37) ⟨true, 0x37⟩ ∧
    writesWord Config.reference .lcdFuncset ⟨false, 0x38⟩ ∧ writesWord Config.reference .lcdDispon ⟨false, 0x0C⟩ ∧
    writesWord Config.reference .lcdClear ⟨false, 0x01⟩ ∧ writesWord Config.reference .lcdEntry ⟨false, 0x06⟩ ∧
    (onBus .idle 0).lph = .idle ∧ ((onBus .setup 1).lph = .setup ∧ (onBus .setup 1).dly ≤ 1) ∧
    ((onBus .pulse 0).lph = .pulse ∧ (onBus .pulse 0).dly ≤ 1) ∧ ((onBus .hold 1).lph = .hold ∧ (onBus .hold 1).dly ≤ 1) ∧
    ((onBus .setup 2).lph ≠ .idle ∧ 2 ≤ (onBus .setup 2).dly) := by
  refine ⟨.inr ⟨rfl, rfl⟩, .inl ⟨rfl, ?_⟩, .inl ⟨rfl, ?_⟩, .inl ⟨rfl, ?_⟩, .inl ⟨rfl, ?_⟩, ?_⟩ <;> decide

theorem witness_DisplayTransactionCompletes :
    writesWord Config.reference .lcdClear ⟨false, 0x01⟩ ∧ (onBus .idle 0).lph = .idle := ⟨.inl ⟨rfl, by decide⟩, rfl⟩

/-- The state at reset has the invariant, so `Inv` and what `Inv` is a premise of are not empty. -/
theorem witness_Inv : Inv State.reset := by
  constructor <;> (try unfold legalWrite) <;> decide

/-- An edge from a state with the invariant, between transactions. -/
theorem witness_BusLinesStable :
    Inv State.reset ∧ State.reset.rstSched = [] ∧
    step State.reset = .next { State.reset with lcdD := 0x38, lph := .setup, dly := 1 } := ⟨witness_Inv, rfl, rfl⟩

/-- A state with the invariant in the middle of the strobe pulse of the second boot command. -/
def bootPulse : State :=
  { State.reset with
    bootI := 1, lph := .pulse, lcdE := true, lcdD := 0x0C, dly := 1, trace := [⟨false, 0x38⟩],
    txq := (initCommands Config.reference).drop 1 }

theorem witness_TraceGrowsAtFallingEdge :
    Inv bootPulse ∧ bootPulse.rstSched = [] ∧
    step bootPulse = .next { bootPulse with
      lcdE := false, lph := .hold, dly := 1, trace := [⟨false, 0x38⟩, ⟨false, 0x0C⟩] } :=
  ⟨by constructor <;> (try unfold legalWrite) <;> decide, rfl, rfl⟩

theorem witness_ShownTextRules :
    (0x0C : Byte) ≠ Config.reference.cmdClear ∧
    shownText Config.reference [⟨false, 0x01⟩] = some [] ∧ (([] : List Byte) ++ [0x31]).length ≤ 16 ∧
    shownText Config.reference (⟨false, 0x01⟩ :: List.replicate 16 ⟨true, 0x31⟩) = some (List.replicate 16 0x31#8) ∧
    16 < (List.replicate 16 0x31#8 ++ [0x31]).length ∧ shownText Config.reference [] = none := by decide

theorem witness_StepRunsDecodedInstruction :
    ((keyed 1 2 none).rstSched = [] ∧ (keyed 1 2 none).ph = .dispatch ∧ (keyed 1 2 none).kev = true ∧
      decode Config.reference (.key (keyed 1 2 none).kcode) = .ok .key0) ∧
    ((onBus .idle 0).ph = .dispatch ∧ (onBus .idle 0).kev = false ∧ (onBus .idle 0).txq = [⟨true, 0x37⟩] ∧
      decode Config.reference (.lcdw (lcdWord ⟨true, 0x37⟩)) = .ok (.lcdData 0x37#8)) ∧
    decode Config.reference (.rowsel (rowPattern 3)) = .ok .rowSel3 ∧
    (State.reset.ph = .boot ∧ ¬ (State.reset.lph = .idle ∧ State.reset.dly ≠ 0)) ∧
    Config.reference.commandsDistinct = true := by
  refine ⟨⟨rfl, rfl, rfl, rfl⟩, ⟨rfl, rfl, rfl, rfl⟩, rfl, ?_, ?_⟩ <;> decide

theorem witness_PhasesFollowTheTable :
    State.reset.rstSched = [] ∧ step { State.reset with ph := .drive } = .next { State.reset with
      ph := .stab, rowPins := 0b1110, rowTrace := [0b1110], dly := 10 } := ⟨rfl, rfl⟩

/-- A state in a phase of the scan, with the row driven and the delay `n`. -/
def scanning (p : Phase) (r : BitVec 2) (n : Nat) (ks : List (BitVec 16)) : State :=
  { State.reset with ph := p, row := r, rowPins := rowPattern r, dly := n, txq := [], bootI := 3, keys := ks }

theorem witness_DelaysTakeTheirCycles :
    (scanning .stab 0 0 []).rstSched = [] ∧ (scanning .stab 0 0 []).ph = .stab ∧
    (scanning .settle 0 200 []).ph = .settle ∧ 2 ≤ (scanning .settle 0 2 []).dly := by decide

theorem witness_SampleTransitions :
    ((scanning .sample 1 0 [0x0020]).ph = .sample ∧ (scanning .sample 1 0 [0x0020]).rstSched = [] ∧
      firstLow (observeMatrix (scanning .sample 1 0 [0x0020])).col = some 1) ∧
    ((observeMatrix (scanning .sample 2 0 [0])).col = 0b1111#4 ∧ (scanning .sample 2 0 [0]).row < 3#2) ∧
    ((observeMatrix (scanning .sample 3 0 [0])).col = 0b1111#4 ∧ (scanning .sample 3 0 [0]).row = 3#2) := by decide

/-- The hold of the key at (1,1). -/
def holding (ks : List (BitVec 16)) : State := { scanning .hold 1 0 ks with kpos := 0b0101, kcode := 0x5 }

theorem witness_HoldAndSettleTransitions :
    ((holding [0]).rstSched = [] ∧ (holding [0]).ph = .hold ∧
      (observeMatrix (holding [0])).col.getLsbD (posCol (holding [0]).kpos).toNat = true) ∧
    (observeMatrix (holding [0x0020])).col.getLsbD (posCol (holding [0x0020]).kpos).toNat = false ∧
    ((scanning .settle 1 1 []).ph = .settle ∧ (scanning .settle 1 1 []).dly ≤ 1) ∧
    2 ≤ (scanning .settle 1 2 []).dly := by decide

theorem witness_ScanPassWithoutKey :
    (scanning .drive 0 0 [0xFFF0, 0xFF0F, 0xF0FF, 0x0FFF]).rstSched = [] ∧
    (scanning .drive 0 0 [0xFFF0, 0xFF0F, 0xF0FF, 0x0FFF]).ph = .drive ∧
    (scanning .drive 0 0 [0xFFF0, 0xFF0F, 0xF0FF, 0x0FFF]).row = 0 ∧
    (scanning .drive 0 0 [0xFFF0, 0xFF0F, 0xF0FF, 0x0FFF]).keys = 0xFFF0 :: 0xFF0F :: 0xF0FF :: 0x0FFF :: [] ∧
    matrixRow 0xFFF0 0 = 0 ∧ matrixRow 0xFF0F 1 = 0 ∧ matrixRow 0xF0FF 2 = 0 ∧ matrixRow 0x0FFF 3 = 0 := by decide

/-- A key in the first row sampled, and D-SCN-3b: (3,1) and (3,2) closed, found in the last row. -/
theorem witness_ScanPassFindsFirstKey :
    ((scanning .drive 0 0 [0x0008]).ph = .drive ∧ (scanning .drive 0 0 [0x0008]).row = 0 ∧
      (scanning .drive 0 0 [0x0008]).keys = [] ++ 0x0008 :: [] ∧ firstLow (~~~matrixRow 0x0008 0) = some 3) ∧
    ((scanning .drive 0 0 [0, 0, 0, 0x6000]).rstSched = [] ∧ [0, 0, (0 : BitVec 16)].length ≤ 3 ∧
      (scanning .drive 0 0 [0, 0, 0, 0x6000]).keys = [0, 0, 0] ++ 0x6000 :: [] ∧
      (∀ i, i < 3 → matrixRow ([0, 0, (0 : BitVec 16)].getD i 0) i = 0) ∧
      firstLow (~~~matrixRow 0x6000 3) = some 1) := by
  refine ⟨by decide, by decide, by decide, by decide, ?_, by decide⟩
  intro i hi
  interval_cases i <;> decide

/-- D-SCN-5: a second key pressed and the first released during the hold of (2,1). -/
theorem witness_PressStepIsAtomic :
    (scanning .sample 2 0 [0x0200, 0x0300, 0x0100]).rstSched = [] ∧
    (scanning .sample 2 0 [0x0200, 0x0300, 0x0100]).ph = .sample ∧
    (scanning .sample 2 0 [0x0200, 0x0300, 0x0100]).keys = 0x0200 :: ([0x0300] ++ 0x0100 :: []) ∧
    firstLow (colLines (rowPattern 2) 0x0200) = some 1 ∧
    (∀ x ∈ [(0x0300 : BitVec 16)], (colLines (rowPattern 2) x).getLsbD (1 : BitVec 2).toNat = false) ∧
    (colLines (rowPattern 2) 0x0100).getLsbD (1 : BitVec 2).toNat = true :=
  ⟨rfl, rfl, rfl, by decide, List.forall_mem_singleton.2 (by decide), by decide⟩

theorem witness_HoldLastsWhileKeyIsDown :
    (holding [0x0020, 0x0030]).rstSched = [] ∧ (holding [0x0020, 0x0030]).ph = .hold ∧
    (holding [0x0020, 0x0030]).keys = [0x0020, 0x0030] ++ [] ∧
    (∀ x ∈ [(0x0020 : BitVec 16), 0x0030],
      (colLines (holding []).rowPins x).getLsbD (posCol (holding []).kpos).toNat = false) :=
  ⟨rfl, rfl, rfl, List.forall_mem_cons.2 ⟨by decide, List.forall_mem_singleton.2 (by decide)⟩⟩

theorem witness_KeyEventRunsToTheNextScan :
    (keyed 78 2 (some .add)).rstSched = [] ∧ (keyed 78 2 (some .add)).ph = .dispatch ∧
    (keyed 78 2 (some .add)).kev = true ∧ (keyed 78 2 (some .add)).lph = .idle ∧ (keyed 78 2 (some .add)).txq = [] ∧
    tabled (keyed 78 2 (some .add)).cfg := ⟨rfl, rfl, rfl, rfl, rfl, rfl, rfl, rfl⟩

theorem witness_QueuedWritesReachTheBusInOrder :
    (onBus .idle 0).rstSched = [] ∧ (onBus .idle 0).ph = .dispatch ∧ (onBus .idle 0).kev = false ∧
    (onBus .idle 0).lph = .idle ∧ (onBus .idle 0).txq = [⟨true, 0x37⟩] ∧
    [(⟨true, 0x37⟩ : LcdWrite)].getLast? = some ⟨true, 0x37⟩ := by decide

/-- D-SCN-4: one long press of (1,1). -/
theorem witness_OnePressGivesOneKeyEvent :
    (scanning .drive 0 0 [0, 0x0020, 0x0020, 0]).rstSched = [] ∧ (scanning .drive 0 0 [0, 0x0020, 0x0020, 0]).ph = .drive ∧
    (scanning .drive 0 0 [0, 0x0020, 0x0020, 0]).row = 0 ∧ (scanning .drive 0 0 [0, 0x0020, 0x0020, 0]).lph = .idle ∧
    (scanning .drive 0 0 [0, 0x0020, 0x0020, 0]).txq = [] ∧ (scanning .drive 0 0 [0, 0x0020, 0x0020, 0]).kev = false ∧
    tabled (scanning .drive 0 0 [0, 0x0020, 0x0020, 0]).cfg ∧
    (scanning .drive 0 0 [0, 0x0020, 0x0020, 0]).keys = [0] ++ 0x0020 :: ([0x0020] ++ 0 :: []) ∧
    matrixRow ([(0 : BitVec 16)].getD 0 0) 0 = 0 ∧ firstLow (~~~matrixRow 0x0020 1) = some 1 ∧
    (∀ x ∈ [(0x0020 : BitVec 16)], (matrixRow x 1).getLsbD (1 : BitVec 2).toNat = true) ∧
    (matrixRow 0 1).getLsbD (1 : BitVec 2).toNat = false :=
  ⟨rfl, rfl, rfl, rfl, rfl, rfl, ⟨rfl, rfl, rfl⟩, rfl, by decide, by decide,
    List.forall_mem_singleton.2 (by decide), by decide⟩

theorem witness_AfterBoot :
    Config.reference.cmdFuncset = 0x38#8 ∧ Config.reference.cmdDispon = 0x0C#8 ∧ Config.reference.cmdClear = 0x01#8 ∧
    Config.reference.cmdEntry = 0x06#8 := by decide

theorem witness_OnlyKeyEventsWriteCalculatorState :
    (keyed 0 0 none).rstSched = [] ∧
    step { keyed 0 0 none with kcode := 0x7 } = .next { keyed 0 0 none with
      kcode := 0x7, op1 := 7, txq := [⟨true, 0x37⟩], kev := false } ∧
    (Calc.mk 7 0 none) ≠ (keyed 0 0 none).calcState := ⟨rfl, rfl, by decide⟩

theorem witness_SwitchesSeenOnlyInSampleAndHold :
    (keyed 0 0 none).rstSched = [] ∧ (keyed 0 0 none).ph ≠ .sample ∧ (keyed 0 0 none).ph ≠ .hold := by decide

theorem witness_OnlyDriveWritesRowLines :
    (scanning .drive 3 0 []).rstSched = [] ∧
    step (scanning .drive 3 0 []) = .next { scanning .drive 3 0 [] with
      ph := .stab, dly := 10, rowTrace := [0b0111] } ∧
    (scanning .stab 3 2 []).ph ≠ .drive ∧
    step (scanning .stab 3 2 []) = .next (scanning .stab 3 1 []) := ⟨rfl, rfl, by decide, rfl⟩

theorem witness_ParametersAreConstant :
    step State.reset = .next { State.reset with lcdD := 0x38, lph := .setup, dly := 1 } := rfl

theorem witness_NoStepEndsTheRun : State.reset.cfg.ovf = .wrap := rfl

theorem witness_ResetInputRestartsTheBlock :
    ({ keyed 5 3 (some .add) with rstSched := [false, true] } : State).rstSched = false :: [true] := rfl

theorem witness_InvariantAtReset : 8 ≤ Config.reference.w ∧ 8 ≤ { Config.reference with w := 8 }.w := by decide

theorem witness_StepKeepsInvariant :
    Inv bootPulse ∧ step bootPulse = .next { bootPulse with
      lcdE := false, lph := .hold, dly := 1, trace := [⟨false, 0x38⟩, ⟨false, 0x0C⟩] } :=
  ⟨witness_TraceGrowsAtFallingEdge.1, rfl⟩

end Sys2Proof.Tests
end

section
/-! Encodings: the classes of key codes (R75), column samples (R73), positions (R71), the bits of the pending operator
(R87), and the values of the row lines (R72). -/

namespace Sys2Proof.Machine

/-! ### Two-bit values -/

theorem bitVec2_cases (r : BitVec 2) : r = 0 ∨ r = 1 ∨ r = 2 ∨ r = 3 := by
  revert r; decide

theorem forall_bitVec2_iff {P : BitVec 2 → Prop} : (∀ r, P r) ↔ P 0 ∧ P 1 ∧ P 2 ∧ P 3 := by
  refine ⟨fun h => ⟨h 0, h 1, h 2, h 3⟩, fun ⟨h0, h1, h2, h3⟩ r => ?_⟩
  rcases bitVec2_cases r with rfl | rfl | rfl | rfl <;> assumption

/-! ### Key classes (R75) -/

theorem le_nine_iff_bits (k : BitVec 4) : k ≤ 9#4 ↔ k.getLsbD 3 = false ∨ k.extractLsb' 1 3 = 0b100#3 := by
  revert k; decide

/-- A code with its two high bits set is 12 or more. -/
theorem not_le_nine_of_operatorBits (k : BitVec 4) (h : k.extractLsb' 2 2 = 0b11#2) : ¬ k ≤ 9#4 := by
  revert k; decide

theorem eq_clear_or_equals_code (k : BitVec 4) (h9 : ¬ k ≤ 9#4) (hop : k.extractLsb' 2 2 ≠ 0b11#2) :
    k = 0xA#4 ∨ k = 0xB#4 := by
  revert k; decide

theorem classOf_eq_digit_iff (k : BitVec 4) : classOf k = .digit ↔ k ≤ 9#4 := by
  unfold classOf; split_ifs <;> simp_all

theorem classOf_eq_operator_iff (k : BitVec 4) : classOf k = .operator ↔ k.extractLsb' 2 2 = 0b11#2 := by
  have := not_le_nine_of_operatorBits k
  unfold classOf; split_ifs <;> simp_all

theorem classOf_eq_clear_iff (k : BitVec 4) : classOf k = .clear ↔ k = 0xA#4 := by
  constructor
  · unfold classOf; split_ifs <;> simp_all
  · rintro rfl; rfl

theorem classOf_eq_equals_iff (k : BitVec 4) : classOf k = .equals ↔ k = 0xB#4 := by
  constructor
  · have := eq_clear_or_equals_code k
    unfold classOf; split_ifs <;> simp_all
  · rintro rfl; rfl

/-- Settles O5: each test says that the class is a certain one, and a key has one class. -/
theorem keyClassesPartition : Obligations.KeyClassesPartition := by
  intro k
  refine ⟨classOf_eq_digit_iff k, le_nine_iff_bits k, classOf_eq_clear_iff k, classOf_eq_equals_iff k,
    classOf_eq_operator_iff k, ?_⟩
  simp only [← classOf_eq_digit_iff, ← classOf_eq_clear_iff, ← classOf_eq_equals_iff, ← classOf_eq_operator_iff]
  cases classOf k <;> rfl

/-! ### Column samples (R73) -/

theorem firstLow_eq_some_iff (s : BitVec 4) (c : BitVec 2) :
    firstLow s = some c ↔ s.getLsbD c.toNat = false ∧ ∀ i : BitVec 2, i < c → s.getLsbD i.toNat = true := by
  unfold firstLow
  rcases bitVec2_cases c with rfl | rfl | rfl | rfl <;> split_ifs <;> simp_all [forall_bitVec2_iff]

/-- No column is found exactly when all four read 1. -/
theorem firstLow_eq_none_iff (s : BitVec 4) : firstLow s = none ↔ s = 0b1111#4 := by
  constructor
  · intro h
    unfold firstLow at h
    split_ifs at h
    refine BitVec.eq_of_getLsbD_eq fun i hi => ?_
    interval_cases i <;> simp_all
  · rintro rfl; rfl

/-- Settles O7. -/
theorem columnPriorityDecode : Obligations.ColumnPriorityDecode :=
  fun s => ⟨firstLow_eq_none_iff s, firstLow_eq_some_iff s⟩

/-! ### Positions (R71) -/

theorem posOf_toNat (r c : BitVec 2) : (posOf r c).toNat = 4 * r.toNat + c.toNat := by
  rw [posOf, BitVec.toNat_append, ← Nat.shiftLeft_add_eq_or_of_lt c.isLt, Nat.shiftLeft_eq]
  omega

@[simp] theorem posRow_posOf (r c : BitVec 2) : posRow (posOf r c) = r := by
  exact BitVec.extractLsb'_append_eq_left

@[simp] theorem posCol_posOf (r c : BitVec 2) : posCol (posOf r c) = c := by
  exact BitVec.extractLsb'_append_eq_right

theorem posOf_lt_posOf_iff (r c r' c' : BitVec 2) : posOf r c < posOf r' c' ↔ r < r' ∨ (r = r' ∧ c < c') := by
  have hc := c.isLt
  have hc' := c'.isLt
  simp only [BitVec.lt_def, posOf_toNat, ← BitVec.toNat_inj]
  omega

/-- Settles O8. -/
theorem positionIsRowMajor : Obligations.PositionIsRowMajor := fun r c r' c' =>
  ⟨posOf_toNat r c, posRow_posOf r c, posCol_posOf r c, posOf_lt_posOf_iff r c r' c'⟩

/-! ### The pending operator (R87) -/

theorem pendOfBits_pendBits (p : Option Op) : pendOfBits (pendBits p) = p := by
  cases p with
  | none => rfl
  | some op => cases op <;> rfl

theorem pendOfBits_of_not_valid (b : BitVec 3) (h : b.getLsbD 2 = false) : pendOfBits b = none := by
  simp only [pendOfBits, h, Bool.false_eq_true, if_false]

/-- The PEND word of a state is its two registers `pend_v`, `pend_op`. -/
theorem pendBits_eq_registers (s : State) : pendBits s.pend = BitVec.ofBool s.pendV ++ s.pendOp := by
  unfold State.pendV State.pendOp
  cases s.pend with
  | none => rfl
  | some op => rfl

/-- Settles O9. -/
theorem pendingOperatorBits : Obligations.PendingOperatorBits :=
  ⟨rfl, rfl, rfl, rfl, rfl, pendOfBits_pendBits, pendOfBits_of_not_valid, pendBits_eq_registers⟩

/-! ### Row lines (R72) -/

/-- Pattern `r` drives line `r` low and no other. -/
theorem rowPattern_getLsbD_eq_false_iff (r : BitVec 2) (j : Fin 4) :
    (rowPattern r).getLsbD j.val = false ↔ j.val = r.toNat := by
  revert r j; decide

/-- Every instruction is a key, a row select or a bus write. -/
theorem instr_kind (cfg : Config) (i : Instr) :
    i ∈ keyList ∨ (∃ r, i = rowSelInstr r) ∨ ∃ w, writesWord cfg i w := by
  cases i with
  | key0 | key1 | key2 | key3 | key4 | key5 | key6 | key7 | key8 | key9
  | keyClr | keyEq | keyAdd | keySub | keyMul | keyDiv => left; decide
  | rowSel0 => exact .inr (.inl ⟨0, rfl⟩)
  | rowSel1 => exact .inr (.inl ⟨1, rfl⟩)
  | rowSel2 => exact .inr (.inl ⟨2, rfl⟩)
  | rowSel3 => exact .inr (.inl ⟨3, rfl⟩)
  | lcdFuncset => exact .inr (.inr ⟨⟨false, cfg.cmdFuncset⟩, .inl ⟨rfl, by simp [displayCommands]⟩⟩)
  | lcdDispon => exact .inr (.inr ⟨⟨false, cfg.cmdDispon⟩, .inl ⟨rfl, by simp [displayCommands]⟩⟩)
  | lcdClear => exact .inr (.inr ⟨⟨false, cfg.cmdClear⟩, .inl ⟨rfl, by simp [displayCommands]⟩⟩)
  | lcdEntry => exact .inr (.inr ⟨⟨false, cfg.cmdEntry⟩, .inl ⟨rfl, by simp [displayCommands]⟩⟩)
  | lcdData c => exact .inr (.inr ⟨⟨true, c⟩, .inr ⟨rfl, rfl⟩⟩)

/-- Only a row select writes the row lines, and it drives a pattern. -/
theorem exec_rowPins (i : Instr) (s t : State) (h : exec i s = .next t) :
    t.rowPins = s.rowPins ∨ ∃ r, t.rowPins = rowPattern r := by
  rcases instr_kind s.cfg i with hkey | ⟨r, rfl⟩ | ⟨w, hw⟩
  · rcases exec_key_shape i hkey s with hf | ⟨a, b, p, ws, hn⟩
    · rw [hf] at h; cases h
    · rw [hn] at h; cases h; exact .inl rfl
  · rw [exec_rowSelInstr] at h; cases h; exact .inr ⟨r, rfl⟩
  · rw [exec_writesWord i w s hw] at h; cases h; exact .inl (by simp)

theorem clockEdge_rowPins (s t : State) (h : clockEdge s = .next t) :
    t.rowPins = s.rowPins ∨ ∃ r, t.rowPins = rowPattern r := by
  unfold clockEdge at h
  split at h
  · obtain ⟨u, hu, rfl⟩ := onNext_eq_next h
    simpa using exec_rowPins _ s u hu
  · cases h; exact .inl (by simp)

/-- A step is a clock edge with the next level of `rst_n` consumed, or, with that level low, a reset. -/
theorem step_eq_clockEdge_or_reset (s : State) :
    step s = clockEdge { s with rstSched := s.rstSched.tail } ∨
    ∃ rest, s.rstSched = false :: rest ∧ step s = .next (heldInReset rest s) := by
  cases hr : s.rstSched with
  | nil =>
    have hs : ({ s with rstSched := [] } : State) = s := by rw [← hr]
    left; rw [step_of_released s hr, List.tail_nil, hs]
  | cons level rest =>
    cases level with
    | true => exact .inl (by simp [step, hr])
    | false => exact .inr ⟨rest, rfl, by simp [step, hr]⟩

theorem step_rowPins (s t : State) (h : step s = .next t) :
    t.rowPins = s.rowPins ∨ (∃ r, t.rowPins = rowPattern r) ∨
    (t.rowPins = 0b1111#4 ∧ ∃ rest, s.rstSched = false :: rest) := by
  rcases step_eq_clockEdge_or_reset s with hedge | ⟨rest, hlow, hreset⟩
  · rw [hedge] at h
    rcases clockEdge_rowPins _ t h with hkept | hdriven
    · exact .inl hkept
    · exact .inr (.inl hdriven)
  · rw [hreset] at h; cases h
    exact .inr (.inr ⟨rfl, rest, hlow⟩)

/-- Settles O30: a row select drives a pattern, reset drives 0b1111, and nothing else writes the row lines. -/
theorem rowLinesTakeFiveValues : Obligations.RowLinesTakeFiveValues :=
  ⟨rfl, rfl, rfl, rfl, rowPattern_getLsbD_eq_false_iff, step_rowPins⟩

end Sys2Proof.Machine
end

section
/-! Digit keys (R152 to R162) and digit sequences (R184): a digit key reads and writes one operand, the one it
accumulates into, so both operands are treated by one rule and one induction. -/

namespace Sys2Proof.Machine

/-! ### Wrapped arithmetic (R9) -/

@[simp] theorem wrapW_zero (cfg : Config) : wrapW cfg 0 = 0 := Int.zero_bmod

/-- A digit appended to a wrapped operand is the digit appended to the value before wrapping. -/
@[simp] theorem wrapW_wrapW_mul_add (cfg : Config) (v m c : Int) :
    wrapW cfg (wrapW cfg v * m + c) = wrapW cfg (v * m + c) := by
  unfold wrapW
  rw [← Int.bmod_add_bmod, Int.bmod_mul_bmod, Int.bmod_add_bmod]

theorem wrapW_eq_self_of_inRange (cfg : Config) (v : Int) (hw : 1 ≤ cfg.w) (hv : inRange cfg v) :
    wrapW cfg v = v := by
  obtain ⟨hlo, hhi⟩ := hv
  have hpow : ((2 ^ cfg.w : Nat) : Int) = 2 ^ (cfg.w - 1) * 2 := by
    rw [← pow_succ, Nat.sub_add_cancel hw]; norm_cast
  exact Int.bmod_eq_of_le_mul_two (by omega) (by omega)

/-! ### The keys and their codes (R74, R76) -/

theorem encode_decodeKey (cfg : Config) (k : BitVec 4) : encode cfg (decodeKey k) = .key k := by
  have h : ∀ j : Fin 16, encode cfg (decodeKey (BitVec.ofFin j)) = .key (BitVec.ofFin j) := by
    intro j; fin_cases j <;> rfl
  exact h k.toFin

theorem eq_digitKey_of_mem_digitKeys : ∀ p ∈ digitKeys, p.1 = digitKey p.2 := by decide

theorem exec_digitKey (d : Fin 10) (s : State) : exec (digitKey d) s = digitStep d s := by
  fin_cases d <;> rfl

/-- The ASCII codes of the digits (R82). -/
theorem code_digit_ascii (cfg : Config) (d : Fin 10) (h : cfg.chr = asciiCodes) :
    cfg.code (.digit d) = 0x30#8 + BitVec.ofNat 8 d.val := by
  have htable : ∀ d : Fin 10, asciiCodes[(Glyph.digit d).index] = 0x30#8 + BitVec.ofNat 8 d.val := by decide
  simp only [Config.code, h, htable]

/-! ### The operand a digit key accumulates into (R152) -/

/-- `x` of `DigitStep`: the first operand with no operator pending, else the second. -/
def State.typedOperand (s : State) : Int :=
  match s.pend with
  | none   => s.op1
  | some _ => s.op2

/-- The state after digits were typed: `v` in the operand they accumulate into, their echoes queued. -/
def State.withTyped (s : State) (v : Int) (echoes : List LcdWrite) : State :=
  match s.pend with
  | none   => { s with op1 := v, txq := s.txq ++ echoes }
  | some _ => { s with op2 := v, txq := s.txq ++ echoes }

theorem typedOperand_of_none {s : State} (hp : s.pend = none) : s.typedOperand = s.op1 := by
  simp only [State.typedOperand, hp]

theorem typedOperand_of_some {s : State} {op : Op} (hp : s.pend = some op) : s.typedOperand = s.op2 := by
  simp only [State.typedOperand, hp]

theorem withTyped_of_none {s : State} (hp : s.pend = none) (v : Int) (ws : List LcdWrite) :
    s.withTyped v ws = { s with op1 := v, txq := s.txq ++ ws } := by
  unfold State.withTyped; rw [hp]

theorem withTyped_of_some {s : State} {op : Op} (hp : s.pend = some op) (v : Int) (ws : List LcdWrite) :
    s.withTyped v ws = { s with op2 := v, txq := s.txq ++ ws } := by
  unfold State.withTyped; rw [hp]

@[simp] theorem withTyped_cfg (s : State) (v : Int) (ws : List LcdWrite) : (s.withTyped v ws).cfg = s.cfg := by
  unfold State.withTyped; split <;> rfl

@[simp] theorem withTyped_pend (s : State) (v : Int) (ws : List LcdWrite) : (s.withTyped v ws).pend = s.pend := by
  unfold State.withTyped; split <;> rfl

@[simp] theorem typedOperand_withTyped (s : State) (v : Int) (ws : List LcdWrite) :
    (s.withTyped v ws).typedOperand = v := by
  cases hp : s.pend with
  | none => simp [withTyped_of_none hp, State.typedOperand, hp]
  | some op => simp [withTyped_of_some hp, State.typedOperand, hp]

@[simp] theorem withTyped_withTyped (s : State) (v v' : Int) (ws ws' : List LcdWrite) :
    (s.withTyped v ws).withTyped v' ws' = s.withTyped v' (ws ++ ws') := by
  cases hp : s.pend with
  | none => simp [State.withTyped, hp]
  | some op => simp [State.withTyped, hp]

/-- With no digit typed, nothing changes. -/
theorem withTyped_typedOperand_nil (s : State) : s.withTyped s.typedOperand [] = s := by
  cases hp : s.pend with
  | none => simp [withTyped_of_none hp, typedOperand_of_none hp]
  | some op => simp [withTyped_of_some hp, typedOperand_of_some hp]

/-- Under wrap a digit step always completes. -/
theorem digitStep_wrap (d : Fin 10) (s : State) (ho : s.cfg.ovf = .wrap) :
    digitStep d s = .next (s.withTyped (wrapW s.cfg (s.typedOperand * 10 + d.val))
      [⟨true, s.cfg.code (.digit d)⟩]) := by
  cases hp : s.pend with
  | none =>
    simp only [digitStep, hp, narrow_wrap _ _ ho, withTyped_of_none hp, typedOperand_of_none hp]; rfl
  | some op =>
    simp only [digitStep, hp, narrow_wrap _ _ ho, withTyped_of_some hp, typedOperand_of_some hp]; rfl

/-- Settles O15: each digit key is the digit step of its digit, and that step completes under wrap. -/
theorem digitKeysAccumulate : Obligations.DigitKeysAccumulate := by
  rintro ⟨i, d⟩ hmem s ho
  obtain rfl : i = digitKey d := eq_digitKey_of_mem_digitKeys _ hmem
  refine ⟨fun hp => ?_, fun op hp => ?_, code_digit_ascii s.cfg d, encode_decodeKey _ _⟩
  · rw [exec_digitKey, digitStep_wrap d s ho, withTyped_of_none hp, typedOperand_of_none hp]
  · rw [exec_digitKey, digitStep_wrap d s ho, withTyped_of_some hp, typedOperand_of_some hp]

/-! ### The value of a digit sequence (R184) -/

@[simp] theorem digitsValue_nil : digitsValue [] = 0 := rfl

theorem digitsValue_concat (ds : List (Fin 10)) (d : Fin 10) :
    digitsValue (ds ++ [d]) = digitsValue ds * 10 + d.val := by
  simp [digitsValue, List.foldl_append]

theorem digitsValue_nonneg (ds : List (Fin 10)) : 0 ≤ digitsValue ds := by
  induction ds using List.reverseRecOn with
  | nil => exact le_rfl
  | append_singleton ds d ih => rw [digitsValue_concat]; omega

/-- `sum(Di * 10^(n-i))` of R184, the digits counted from 0. -/
def positionalSum (ds : List (Fin 10)) : Nat :=
  ((List.range ds.length).map fun i => (ds.getD i 0).val * 10 ^ (ds.length - 1 - i)).sum

/-- One more digit moves every earlier one up by one place. -/
theorem positionalSum_concat (ds : List (Fin 10)) (d : Fin 10) :
    positionalSum (ds ++ [d]) = 10 * positionalSum ds + d.val := by
  have hshift : ∀ i ∈ List.range ds.length,
      ((ds ++ [d]).getD i 0).val * 10 ^ (ds.length - i) =
        10 * ((ds.getD i 0).val * 10 ^ (ds.length - 1 - i)) := by
    intro i hi
    have hlt := List.mem_range.mp hi
    rw [List.getD_append _ _ _ _ hlt, show ds.length - i = ds.length - 1 - i + 1 by omega, pow_succ]
    ring
  simp only [positionalSum, List.length_append, List.length_singleton, Nat.add_sub_cancel, List.range_succ,
    List.map_append, List.sum_append, List.map_congr_left hshift, List.sum_map_mul_left]
  simp

/-- Reading left to right gives the positional sum. -/
theorem digitsValue_eq_positionalSum (ds : List (Fin 10)) : digitsValue ds = positionalSum ds := by
  induction ds using List.reverseRecOn with
  | nil => rfl
  | append_singleton ds d ih => rw [digitsValue_concat, positionalSum_concat, ih]; push_cast; ring

/-- A value below `2^(W-1)` is read as it is typed. -/
theorem wrapW_digitsValue_of_lt (cfg : Config) (ds : List (Fin 10)) (hw : 1 ≤ cfg.w)
    (h : digitsValue ds < 2 ^ (cfg.w - 1)) : wrapW cfg (digitsValue ds) = digitsValue ds := by
  refine wrapW_eq_self_of_inRange cfg _ hw ⟨?_, h⟩
  exact (neg_nonpos.mpr (by positivity)).trans (digitsValue_nonneg ds)

/-- Digits typed after the digits `cs` extend the number: the operand holds the wrapped reading of both together. -/
theorem execAll_digits (ds cs : List (Fin 10)) (s : State) (ho : s.cfg.ovf = .wrap)
    (hx : s.typedOperand = wrapW s.cfg (digitsValue cs)) :
    execAll (ds.map digitKey) s =
      .next (s.withTyped (wrapW s.cfg (digitsValue (cs ++ ds))) (digitEchoes s.cfg ds)) := by
  induction ds generalizing cs s with
  | nil =>
    have hkept := withTyped_typedOperand_nil s
    rw [hx] at hkept
    simpa [execAll, digitEchoes] using hkept.symm
  | cons d ds ih =>
    have hstep : exec (digitKey d) s =
        .next (s.withTyped (wrapW s.cfg (digitsValue (cs ++ [d]))) [⟨true, s.cfg.code (.digit d)⟩]) := by
      rw [exec_digitKey, digitStep_wrap d s ho, hx, wrapW_wrapW_mul_add, digitsValue_concat]
    simp only [List.map_cons, execAll, hstep]
    rw [ih (cs ++ [d]) _ (by simpa using ho) (by simp)]
    simp [digitEchoes]

/-- Settles O17: the digits are those typed after no digit at all, in the operand they accumulate into. -/
theorem digitsReadPositionally : Obligations.DigitsReadPositionally := by
  intro ds s ho hw
  refine ⟨digitsValue_eq_positionalSum ds, wrapW_digitsValue_of_lt s.cfg ds hw, fun hp hx => ?_, fun op hp hx => ?_⟩
  · rw [execAll_digits ds [] s ho (by simp [typedOperand_of_none hp, hx]), withTyped_of_none hp, List.nil_append]
  · rw [execAll_digits ds [] s ho (by simp [typedOperand_of_some hp, hx]), withTyped_of_some hp, List.nil_append]

end Sys2Proof.Machine
end

section
/-! Division (R176), the operator keys (R163 to R167), Equals (R169, R177) and the table of `apply` (R186). -/

namespace Sys2Proof.Machine

/-! ### Division (R176) -/

/-- The model's quotient is the truncating quotient of the library. -/
theorem tdiv_eq_int_tdiv (a b : Int) : tdiv a b = a.tdiv b := by
  rw [← Int.sign_mul_natAbs (a.tdiv b), Int.sign_tdiv, Int.natAbs_tdiv]
  split_ifs with hlt
  · simp [tdiv, Nat.div_eq_of_lt hlt]
  · rfl

/-- The sign of a quotient: negative for opposite signs, unless the magnitude is zero. -/
theorem tdiv_neg_iff (a b : Int) (hb : b ≠ 0) :
    tdiv a b < 0 ↔ ((a < 0 ∧ 0 < b) ∨ (0 < a ∧ b < 0)) ∧ a.natAbs / b.natAbs ≠ 0 := by
  unfold tdiv
  generalize a.natAbs / b.natAbs = q
  rcases lt_trichotomy a 0 with ha | rfl | ha <;> rcases lt_or_gt_of_ne hb with hb | hb
  · rw [Int.sign_eq_neg_one_of_neg ha, Int.sign_eq_neg_one_of_neg hb]; omega
  · rw [Int.sign_eq_neg_one_of_neg ha, Int.sign_eq_one_of_pos hb]; omega
  · simp
  · simp
  · rw [Int.sign_eq_one_of_pos ha, Int.sign_eq_neg_one_of_neg hb]; omega
  · rw [Int.sign_eq_one_of_pos ha, Int.sign_eq_one_of_pos hb]; omega

theorem tmod_nonpos_of_nonpos (a b : Int) (ha : a ≤ 0) : a.tmod b ≤ 0 := by
  have h := Int.tmod_nonneg b (Int.neg_nonneg_of_nonpos ha)
  rw [Int.neg_tmod] at h
  omega

/-- Settles O12: `tdiv` is the library's truncating quotient, whose remainder is `tmod`. -/
theorem divisionTruncates : Obligations.DivisionTruncates := by
  refine ⟨fun a b hb => ⟨?_, tdiv_neg_iff a b hb, ⟨a.tmod b, ?_, ?_, Int.tmod_nonneg b, tmod_nonpos_of_nonpos a b⟩,
    fun cfg ho => narrow_wrap cfg _ ho⟩, by decide⟩
  · rw [tdiv_eq_int_tdiv, Int.natAbs_tdiv]; rfl
  · rw [tdiv_eq_int_tdiv, Int.tdiv_mul_add_tmod]
  · rw [Int.natAbs_tmod]; exact Nat.mod_lt _ (Int.natAbs_pos.mpr hb)

/-! ### Operator keys (R163 to R167) -/

/-- The key of an operator: its code is 0b11 followed by the operator bits (R77). -/
def operatorKey (op : Op) : Instr := decodeKey (0b11#2 ++ opBits op)

theorem eq_operatorKey_of_mem_operatorKeys : ∀ p ∈ operatorKeys, p.1 = operatorKey p.2 := by decide

theorem exec_operatorKey (op : Op) (s : State) :
    exec (operatorKey op) s =
      .next { s with pend := some op, txq := s.txq ++ [⟨true, s.cfg.code (opGlyph op)⟩] } := by
  cases op <;> rfl

/-- The ASCII codes of the operator characters (R82, R163). -/
theorem code_opGlyph_ascii (cfg : Config) (op : Op) (h : cfg.chr = asciiCodes) :
    cfg.code (opGlyph op) = opChr op := by
  simp only [Config.code, h]
  cases op <;> rfl

/-- Settles O18. -/
theorem operatorKeysReplacePending : Obligations.OperatorKeysReplacePending := by
  rintro ⟨i, op⟩ hmem s
  obtain rfl : i = operatorKey op := eq_operatorKey_of_mem_operatorKeys _ hmem
  exact ⟨exec_operatorKey op s, code_opGlyph_ascii s.cfg op, encode_decodeKey _ _⟩

/-! ### Equals (R169, R177) -/

theorem execKeyEq_of_nothing_pending (s : State) (hp : s.pend = none) : execKeyEq s = .next s := by
  simp [execKeyEq, hp]

theorem execKeyEq_of_zero_divisor (s : State) (hp : s.pend = some .div) (h0 : s.op2 = 0) :
    execKeyEq s = .next (returnFromDivideByZero (raiseDivideByZero s)) := by
  simp [execKeyEq, hp, h0]

theorem execKeyEq_of_result (s : State) (op : Op) (v : Int) (hp : s.pend = some op)
    (hd : ¬ (op = .div ∧ s.op2 = 0)) (hv : compute s.cfg op s.op1 s.op2 = .ok v) :
    execKeyEq s = .next (showResult v s) := by
  simp only [execKeyEq, hp, if_neg hd, hv]

theorem code_letters_ascii (cfg : Config) (h : cfg.chr = asciiCodes) :
    cfg.code .letterE = 0x45#8 ∧ cfg.code .letterR = 0x72#8 := by
  simp only [Config.code, h]
  exact ⟨rfl, rfl⟩

/-- Settles O23: the divisor is tested before anything is computed, so neither `op1` nor `OVF_MODE` matters. -/
theorem equalsDivideByZero : Obligations.EqualsDivideByZero :=
  fun s hp h0 => ⟨execKeyEq_of_zero_divisor s hp h0, code_letters_ascii s.cfg⟩

/-! ### The table of `apply` (R186) -/

/-- A digit code is the key of the digit that is its value (R76). -/
theorem decodeKey_of_digit (k : BitVec 4) (h : classOf k = .digit) :
    ∃ d : Fin 10, d.val = k.toNat ∧ decodeKey k = digitKey d := by
  have hk : k.toNat ≤ 9 := (classOf_eq_digit_iff k).mp h
  exact ⟨⟨k.toNat, by omega⟩, rfl, by simp [digitKey]⟩

/-- An operator code is the key of the operator in its two low bits (R77). -/
theorem decodeKey_of_operator (k : BitVec 4) (h : classOf k = .operator) :
    decodeKey k = operatorKey (opOfBits (k.extractLsb' 0 2)) := by
  rw [classOf_eq_operator_iff] at h
  revert k; decide

/-- A result in ASCII (R181). -/
theorem displayString_decGlyphs_ascii (cfg : Config) (v : Int) (h : cfg.chr = asciiCodes) :
    displayString cfg (decGlyphs v) = (decText v).map fun b => ⟨true, b⟩ := by
  have hminus : cfg.code .minus = 0x2D#8 := code_opGlyph_ascii cfg .sub h
  unfold displayString decGlyphs decText dataWrite
  split_ifs <;> simp [hminus, code_digit_ascii cfg _ h]

/-- `s` after a row of the table: its Calculator State, and its writes queued. -/
def State.withEffect (s : State) (e : Effect) : State :=
  { s with op1 := e.after.op1, op2 := e.after.op2, pend := e.after.pend, txq := s.txq ++ e.writes }

theorem exec_digit_follows_table (s : State) (k : BitVec 4) (ht : tabled s.cfg) (hc : classOf k = .digit) :
    exec (decodeKey k) s = .next (s.withEffect (applyTable s.cfg k s.calcState)) := by
  obtain ⟨hchr, -, ho⟩ := ht
  obtain ⟨d, hd, hkey⟩ := decodeKey_of_digit k hc
  have hecho : s.cfg.code (.digit d) = 0x30#8 + k.zeroExtend 8 := by
    rw [code_digit_ascii s.cfg d hchr, hd, BitVec.ofNat_toNat]
  rw [hkey, exec_digitKey, digitStep_wrap d s ho, hd, hecho]
  cases hp : s.pend with
  | none =>
    simp [applyTable, hc, State.calcState, State.withEffect, hp, withTyped_of_none hp, typedOperand_of_none hp,
      mul_comm]
  | some op =>
    simp [applyTable, hc, State.calcState, State.withEffect, hp, withTyped_of_some hp, typedOperand_of_some hp,
      mul_comm]

theorem exec_operator_follows_table (s : State) (k : BitVec 4) (ht : tabled s.cfg) (hc : classOf k = .operator) :
    exec (decodeKey k) s = .next (s.withEffect (applyTable s.cfg k s.calcState)) := by
  rw [decodeKey_of_operator k hc, exec_operatorKey, code_opGlyph_ascii _ _ ht.1]
  simp only [applyTable, hc]
  rfl

theorem execKeyClr_follows_table (s : State) (ht : tabled s.cfg) :
    execKeyClr s = .next (s.withEffect (applyTable s.cfg 0xA#4 s.calcState)) := by
  obtain ⟨-, hclr, -⟩ := ht
  have hrow : applyTable s.cfg 0xA#4 s.calcState = ⟨Calc.zero, [commandWrite s.cfg.cmdClear]⟩ := by
    rw [hclr]; rfl
  rw [hrow]; rfl

theorem execKeyEq_follows_table (s : State) (ht : tabled s.cfg) :
    execKeyEq s = .next (s.withEffect (applyTable s.cfg 0xB#4 s.calcState)) := by
  obtain ⟨hchr, hclr, ho⟩ := ht
  have hc : classOf 0xB#4 = .equals := rfl
  cases hp : s.pend with
  | none =>
    have hrow : applyTable s.cfg 0xB#4 s.calcState = ⟨s.calcState, []⟩ := by
      simp [applyTable, hc, State.calcState, hp]
    rw [execKeyEq_of_nothing_pending s hp, hrow, State.withEffect, List.append_nil]; rfl
  | some op =>
    by_cases hd : op = .div ∧ s.op2 = 0
    · obtain ⟨rfl, h0⟩ := hd
      obtain ⟨hE, hR⟩ := code_letters_ascii s.cfg hchr
      have hrow : applyTable s.cfg 0xB#4 s.calcState = ⟨Calc.zero, displayString s.cfg errGlyphs⟩ := by
        simp [applyTable, hc, State.calcState, hp, h0, displayString, errGlyphs, dataWrite, hE, hR]
      rw [execKeyEq_of_zero_divisor s hp h0, hrow]; rfl
    · have hrow : applyTable s.cfg 0xB#4 s.calcState =
          ⟨Calc.zero, displayNumber s.cfg (wrapW s.cfg (mathResult op s.op1 s.op2))⟩ := by
        simp [applyTable, hc, State.calcState, hp, hd, displayNumber, commandWrite, hclr,
          displayString_decGlyphs_ascii _ _ hchr]
      rw [execKeyEq_of_result s op _ hp hd (narrow_wrap _ _ ho), hrow]; rfl

/-- Settles O26, by the class of the key code. -/
theorem keysFollowTheTable : Obligations.KeysFollowTheTable := by
  intro s k ht
  cases hc : classOf k with
  | digit => exact exec_digit_follows_table s k ht hc
  | operator => exact exec_operator_follows_table s k ht hc
  | clear =>
    obtain rfl := (classOf_eq_clear_iff k).mp hc
    exact execKeyClr_follows_table s ht
  | equals =>
    obtain rfl := (classOf_eq_equals_iff k).mp hc
    exact execKeyEq_follows_table s ht

end Sys2Proof.Machine
end

section
/-! The scan pass (R193): what a sample with a key and one without lead to. The run without end (R196, R207): under wrap
every instruction completes, so every clock edge does. -/

namespace Sys2Proof.Machine

/-! ### The scan pass (R193) -/

/-- The key map as a list, read at the position (R79). -/
theorem keymap_toList_getD (cfg : Config) (p : BitVec 4) : cfg.keymap.toList.getD p.toNat 0 = keyAt cfg p := by
  rw [keyAt_eq, List.getD_eq_getElem _ _ (by simpa using p.isLt), Vector.getElem_toList]

theorem afterSample_of_key (s : State) (c : BitVec 2) (hc : firstLow s.col = some c) :
    afterSample s = { s with kpos := posOf s.row c, kcode := keyAt s.cfg (posOf s.row c), ph := .hold } := by
  simp only [afterSample, hc]

/-- With four rows, the row after row 3 is row 0, as two-bit addition has it. -/
theorem afterSample_of_no_key (s : State) (hs : s.col = 0b1111#4) :
    afterSample s = { s with row := s.row + 1, ph := .drive } := by
  simp only [afterSample, (firstLow_eq_none_iff s.col).mpr hs, nextRow_eq]

/-- Settles O41: after row 3 the next row is row 0 by wrapping, so a sample without a key is one case. -/
theorem sampleTransitions : Obligations.SampleTransitions := by
  intro s hrst hph
  rw [step_sample s hrst hph]
  refine ⟨fun c hc => ?_, fun hs _ => ?_, fun hs hrow => ?_⟩
  · rw [afterSample_of_key _ c hc, keymap_toList_getD, ← observeMatrix_cfg s, ← observeMatrix_row s]; rfl
  · rw [afterSample_of_no_key _ hs, observeMatrix_row]
  · rw [afterSample_of_no_key _ hs, observeMatrix_row, hrow]; rfl

/-! ### The run without end (R196, R207) -/

theorem eq_decodeKey_of_mem_keyList : ∀ i ∈ keyList, ∃ k, i = decodeKey k := by decide

/-- Under wrap Equals completes: what it computes, it narrows without a fault. -/
theorem execKeyEq_completes (s : State) (ho : s.cfg.ovf = .wrap) : ∃ t, execKeyEq s = .next t := by
  cases hp : s.pend with
  | none => exact ⟨s, execKeyEq_of_nothing_pending s hp⟩
  | some op =>
    by_cases hd : op = .div ∧ s.op2 = 0
    · obtain ⟨rfl, h0⟩ := hd
      exact ⟨_, execKeyEq_of_zero_divisor s hp h0⟩
    · exact ⟨_, execKeyEq_of_result s op _ hp hd (narrow_wrap _ _ ho)⟩

theorem exec_decodeKey_completes (k : BitVec 4) (s : State) (ho : s.cfg.ovf = .wrap) :
    ∃ t, exec (decodeKey k) s = .next t := by
  cases hc : classOf k with
  | digit =>
    obtain ⟨d, -, hkey⟩ := decodeKey_of_digit k hc
    rw [hkey, exec_digitKey]
    exact ⟨_, digitStep_wrap d s ho⟩
  | operator =>
    rw [decodeKey_of_operator k hc]
    exact ⟨_, exec_operatorKey _ s⟩
  | clear =>
    obtain rfl := (classOf_eq_clear_iff k).mp hc
    exact ⟨_, rfl⟩
  | equals =>
    obtain rfl := (classOf_eq_equals_iff k).mp hc
    exact execKeyEq_completes s ho

/-- Under wrap no instruction faults, and none is refused. -/
theorem exec_completes (i : Instr) (s : State) (ho : s.cfg.ovf = .wrap) : ∃ t, exec i s = .next t := by
  rcases instr_kind s.cfg i with hkey | ⟨r, rfl⟩ | ⟨w, hw⟩
  · obtain ⟨k, rfl⟩ := eq_decodeKey_of_mem_keyList i hkey
    exact exec_decodeKey_completes k s ho
  · exact ⟨_, exec_rowSelInstr r s⟩
  · exact ⟨_, exec_writesWord i w s hw⟩

theorem clockEdge_completes (s : State) (ho : s.cfg.ovf = .wrap) : ∃ t, clockEdge s = .next t := by
  cases hi : nextInstr s with
  | none => exact ⟨sequencerCycle s, by simp only [clockEdge, hi]⟩
  | some i =>
    obtain ⟨t, ht⟩ := exec_completes i s ho
    exact ⟨afterInstr t, by simp only [clockEdge, hi, ht, onNext]⟩

/-- Settles O56: a step is a clock edge, which completes under wrap, or a reset. -/
theorem noStepEndsTheRun : Obligations.NoStepEndsTheRun := by
  intro s ho
  rcases step_eq_clockEdge_or_reset s with hedge | ⟨rest, -, hreset⟩
  · rw [hedge]; exact clockEdge_completes _ ho
  · exact ⟨_, hreset⟩

end Sys2Proof.Machine
end

section
/-! Boot (R110, R222, R223): the run from reset through the power-on wait and the four initialisation commands to the
first scan, with the phase at every edge of it. -/

namespace Sys2Proof.Machine

/-! ### Runs in `PH_BOOT` -/

/-- `n` edges lead from `s` to `t`, each of them from a state in `PH_BOOT`. -/
def BootRun (n : Nat) (s t : State) : Prop :=
  steps n s = .next t ∧ ∀ m u, m < n → steps m s = .next u → u.ph = .boot

theorem bootRun_zero (s : State) : BootRun 0 s s := ⟨rfl, by simp⟩

theorem bootRun_one {s t : State} (h : step s = .next t) (hph : s.ph = .boot) : BootRun 1 s t := by
  refine ⟨steps_one s t h, fun m u hm hu => ?_⟩
  obtain rfl : m = 0 := by omega
  cases hu
  exact hph

theorem BootRun.trans {m n : Nat} {s t u : State} (hst : BootRun m s t) (htu : BootRun n t u) :
    BootRun (m + n) s u := by
  refine ⟨(steps_add m n s t hst.1).trans htu.1, fun k v hk hv => ?_⟩
  by_cases hkm : k < m
  · exact hst.2 k v hkm hv
  · obtain ⟨j, rfl⟩ := Nat.exists_eq_add_of_le (not_lt.mp hkm)
    rw [steps_add m j s t hst.1] at hv
    exact htu.2 j v (by omega) hv

/-! ### The power-on wait -/

theorem bootRun_wait (s : State) (h0 : s.rstSched = []) (hph : s.ph = .boot) (hidle : s.lph = .idle) (n : Nat) :
    BootRun n { s with dly := n } { s with dly := 0 } := by
  induction n with
  | zero => exact bootRun_zero _
  | succ n ih =>
    have hstep : step { s with dly := n + 1 } = .next { s with dly := n } :=
      step_boot_wait _ h0 hph ⟨hidle, Nat.succ_ne_zero n⟩
    have hrun := (bootRun_one hstep hph).trans ih
    rwa [Nat.add_comm 1 n] at hrun

/-! ### A command of the initialisation -/

theorem step_boot_command (s : State) (w : LcdWrite) (h0 : s.rstSched = []) (hph : s.ph = .boot)
    (hwait : ¬ (s.lph = .idle ∧ s.dly ≠ 0)) (hw : (initCommands s.cfg)[s.bootI.toNat]? = some w) :
    step s = .next (bootAdvance (lcdWrite w.rs w.byte s)) := by
  obtain ⟨w', hw', hstep⟩ := step_boot_write s h0 hph hwait
  obtain rfl : w' = w := Option.some.inj (hw'.symm.trans hw)
  exact hstep

theorem lcdWrite_of_running (rs : Bool) (v : Byte) (s : State) (hbusy : s.lph ≠ .idle) (hd : 2 ≤ s.dly) :
    lcdWrite rs v s = countDown s := by
  rcases lcdWrite_cases rs v s with ⟨h, -⟩ | ⟨-, -, h⟩ | ⟨-, h, -⟩ | ⟨-, h, -⟩ | ⟨-, h, -⟩
  · exact absurd h hbusy
  · exact h
  all_goals omega

theorem bootAdvance_of_busy (s : State) (hbusy : s.lph ≠ .idle) : bootAdvance s = s := by
  unfold bootAdvance
  cases hl : s.lph with
  | idle => exact absurd hl hbusy
  | setup | pulse | hold => rfl

/-- A delay within a transaction: every edge counts down until the one that leads on. -/
theorem bootRun_delay (s t : State) (w : LcdWrite) (h0 : s.rstSched = []) (hph : s.ph = .boot) (hbusy : s.lph ≠ .idle)
    (hw : (initCommands s.cfg)[s.bootI.toNat]? = some w)
    (hend : ∀ d ≤ 1, bootAdvance (lcdWrite w.rs w.byte { s with dly := d }) = t) (n : Nat) :
    BootRun (max 1 n) { s with dly := n } t := by
  have hstep (d : Nat) := step_boot_command { s with dly := d } w h0 hph (fun h => hbusy h.1) hw
  induction n with
  | zero => exact bootRun_one (by rw [hstep, hend 0 (by omega)]) hph
  | succ n ih =>
    by_cases hn : n = 0
    · subst hn
      exact bootRun_one (by rw [hstep, hend 1 le_rfl]) hph
    · have hdown : step { s with dly := n + 1 } = .next { s with dly := n } := by
        rw [hstep, lcdWrite_of_running _ _ { s with dly := n + 1 } hbusy (show 2 ≤ n + 1 by omega)]
        exact congrArg _ (bootAdvance_of_busy _ hbusy)
      rw [show max 1 (n + 1) = 1 + max 1 n by omega]
      exact (bootRun_one hdown hph).trans ih

/-- `s` with the word `w` on the lines, before the strobe, but for the delay counter. -/
def State.inSetup (s : State) (w : LcdWrite) : State :=
  { s with lcdRs := w.rs, lcdRw := false, lcdD := w.byte, lph := .setup }

/-- `s` with `LCD_E` high over the word `w`, but for the delay counter. -/
def State.inPulse (s : State) (w : LcdWrite) : State := { s.inSetup w with lcdE := true, lph := .pulse }

/-- `s` after the falling edge of `LCD_E` over the word `w`, but for the delay counter. -/
def State.inHold (s : State) (w : LcdWrite) : State :=
  { s.inSetup w with lcdE := false, trace := s.trace ++ [w], lph := .hold }

/-- `s` at the end of the transaction of the word `w`. -/
def State.sent (s : State) (w : LcdWrite) : State := { s.inHold w with lph := .idle, dly := 0 }

/-- The transaction of the command `boot_i`: its first edge, then the set-up, pulse and hold delays (R100). -/
theorem bootRun_command (s : State) (w : LcdWrite) (h0 : s.rstSched = []) (hph : s.ph = .boot) (hidle : s.lph = .idle)
    (hdly : s.dly = 0) (hw : (initCommands s.cfg)[s.bootI.toNat]? = some w) :
    BootRun (lcdEdges s.cfg) s (bootAdvance (s.sent w)) := by
  have hstart : BootRun 1 s { s.inSetup w with dly := s.cfg.cycles s.cfg.tES } := by
    refine bootRun_one ?_ hph
    rw [step_boot_command s w h0 hph (by simp [hdly]) hw]
    simp [lcdWrite, hidle, bootAdvance, State.inSetup]
  have hsetup := bootRun_delay (s.inSetup w) { s.inPulse w with dly := s.cfg.cycles s.cfg.tEW } w h0 hph nofun hw
    (fun d hd => by simp [lcdWrite, expired, hd, bootAdvance, State.inPulse, State.inSetup]) (s.cfg.cycles s.cfg.tES)
  have hpulse := bootRun_delay (s.inPulse w) { s.inHold w with dly := s.cfg.cycles s.cfg.tEH } w h0 hph nofun hw
    (fun d hd => by simp [lcdWrite, expired, hd, bootAdvance, State.inHold, State.inPulse, State.inSetup])
    (s.cfg.cycles s.cfg.tEW)
  have hhold := bootRun_delay (s.inHold w) (bootAdvance (s.sent w)) w h0 hph nofun hw
    (fun d hd => by simp [lcdWrite, expired, hd, State.sent, State.inHold]) (s.cfg.cycles s.cfg.tEH)
  exact ((hstart.trans hsetup).trans hpulse).trans hhold

/-! ### From reset to the first scan -/

/-- The state at the first scan after boot (R222, R223), with the user's schedule untouched. -/
def State.booted (cfg : Config) (ks : List (BitVec 16)) : State :=
  { State.resetWith cfg with
    keys := ks, ph := .drive, dly := 0, bootI := 3, txq := [], lcdD := cfg.cmdEntry, trace := initCommands cfg }

theorem bootRun_reset (cfg : Config) (ks : List (BitVec 16)) :
    BootRun (cfg.cycles cfg.tPwron + 4 * lcdEdges cfg) { State.resetWith cfg with keys := ks }
      (State.booted cfg ks) := by
  have hwait := bootRun_wait { State.resetWith cfg with keys := ks } rfl rfl rfl (cfg.cycles cfg.tPwron)
  have hfuncset := bootRun_command { State.resetWith cfg with keys := ks, dly := 0 }
    ⟨false, cfg.cmdFuncset⟩ rfl rfl rfl rfl rfl
  have hdispon := hfuncset.trans (bootRun_command _ ⟨false, cfg.cmdDispon⟩ rfl rfl rfl rfl rfl)
  have hclear := hdispon.trans (bootRun_command _ ⟨false, cfg.cmdClear⟩ rfl rfl rfl rfl rfl)
  have hentry := hclear.trans (bootRun_command _ ⟨false, cfg.cmdEntry⟩ rfl rfl rfl rfl rfl)
  have hedges : 4 * lcdEdges cfg = lcdEdges cfg + lcdEdges cfg + lcdEdges cfg + lcdEdges cfg := by ring
  rw [hedges]
  exact hwait.trans hentry

/-- The clear command empties the shown text, and the entry command after it leaves the text alone (R111). -/
theorem shownText_initCommands (cfg : Config) (hne : cfg.cmdEntry ≠ cfg.cmdClear) :
    shownText cfg (initCommands cfg) = some [] := by
  simp [shownText, initCommands, shownStep, hne]

/-- Settles O51: the codes only enter in the trace and in that the entry command is not a second clear. -/
theorem afterBoot : Obligations.AfterBoot := by
  intro cfg ks hfuncset hdispon hclear hentry
  obtain ⟨hrun, hboot⟩ := bootRun_reset cfg ks
  have htrace : (State.booted cfg ks).trace =
      [⟨false, 0x38#8⟩, ⟨false, 0x0C#8⟩, ⟨false, 0x01#8⟩, ⟨false, 0x06#8⟩] := by
    rw [← hfuncset, ← hdispon, ← hclear, ← hentry]; rfl
  have hshown : shownText cfg (State.booted cfg ks).trace = some [] :=
    shownText_initCommands cfg (by rw [hentry, hclear]; decide)
  exact ⟨_, _, hrun, hboot, rfl, rfl, htrace, hshown, rfl, rfl, rfl, rfl, rfl⟩

/-- Settles O58: every register is at the value the reset state writes out, at the reference parameters. -/
theorem stateAtReset : Obligations.StateAtReset :=
  ⟨rfl, rfl, rfl, rfl, rfl, rfl, rfl, rfl, rfl, rfl, rfl, rfl, rfl, rfl, rfl, rfl⟩

end Sys2Proof.Machine
end

section
/-! Arithmetic (R9, R170 to R178) and the decimal rendering of a result (R181): what `wrap_W` is, and what a rendered
value reads back as. -/

namespace Sys2Proof.Machine

/-! ### `wrap_W` (R9) -/

theorem pow_width (cfg : Config) (hw : 1 ≤ cfg.w) : ((2 ^ cfg.w : Nat) : Int) = 2 ^ (cfg.w - 1) * 2 := by
  rw [← pow_succ, Nat.sub_add_cancel hw]; norm_cast

/-- Settles O10: the library's balanced remainder by `2^W`. -/
theorem wrapIsTheRepresentative : Obligations.WrapIsTheRepresentative := by
  intro cfg v r hw
  have hpow := pow_width cfg hw
  have hdvd : ((2 ^ cfg.w : Nat) : Int) ∣ r - v ↔ (2 ^ cfg.w : Int) ∣ v - r := by
    rw [← dvd_neg, neg_sub]; norm_cast
  rw [eq_comm, wrapW, Int.bmod_eq_iff (by positivity), hdvd, inRange, and_assoc]
  refine and_congr ?_ (and_congr ?_ Iff.rfl) <;> omega

theorem inRange_wrapW (cfg : Config) (v : Int) (hw : 1 ≤ cfg.w) : inRange cfg (wrapW cfg v) :=
  ((wrapIsTheRepresentative cfg v _ hw).mp rfl).1

/-- What narrowing answers is a `W`-bit value, in either overflow mode (R171, R172). -/
theorem inRange_of_narrow (cfg : Config) (v r : Int) (hw : 1 ≤ cfg.w) (h : narrow cfg v = .ok r) : inRange cfg r := by
  unfold narrow at h
  cases ho : cfg.ovf with
  | wrap => simp only [ho, Except.ok.injEq] at h; exact h ▸ inRange_wrapW cfg v hw
  | fault =>
    simp only [ho] at h
    split_ifs at h with hv
    cases h; exact hv

theorem inRange_zero (cfg : Config) : inRange cfg 0 :=
  ⟨neg_nonpos.mpr (by positivity), by positivity⟩

/-! ### Compute (R170 to R178) -/

/-- `-2^(W-1) / -1` is `2^(W-1)`, the first value past the range. -/
theorem tdiv_min_neg_one (n : Nat) : tdiv (-(2 ^ n)) (-1) = 2 ^ n := by
  rw [tdiv_eq_int_tdiv, Int.tdiv_neg, Int.tdiv_one, neg_neg]

theorem wrapW_past_max (cfg : Config) (hw : 1 ≤ cfg.w) : wrapW cfg (2 ^ (cfg.w - 1)) = -(2 ^ (cfg.w - 1)) := by
  have hdouble : (2 ^ (cfg.w - 1) - -(2 ^ (cfg.w - 1)) : Int) = 2 ^ cfg.w := by
    have := pow_width cfg hw
    push_cast at this
    omega
  refine ((wrapIsTheRepresentative cfg _ _ hw).mpr ⟨⟨le_rfl, ?_⟩, dvd_of_eq hdouble.symm⟩).symm
  exact neg_lt_self (by positivity)

/-- Settles O11: under wrap Compute is `wrap_W` of the mathematical result. -/
theorem computeWraps : Obligations.ComputeWraps := by
  intro cfg a b ho hw
  have hwrap (op : Op) (x y : Int) : compute cfg op x y = .ok (wrapW cfg (mathResult op x y)) := narrow_wrap cfg _ ho
  refine ⟨hwrap .add a b, hwrap .sub a b, hwrap .mul a b, hwrap .div a b, fun op hr => ?_, ?_⟩
  · rw [hwrap, wrapW_eq_self_of_inRange cfg _ hw hr]
  · rw [hwrap, mathResult, tdiv_min_neg_one, wrapW_past_max cfg hw]

/-! ### The decimal digits of a magnitude -/

theorem decDigits_of_lt_ten (fuel m : Nat) (hm : m < 10) : decDigits fuel m = [⟨m, hm⟩] := by
  have hmod : m % 10 = m := Nat.mod_eq_of_lt hm
  cases fuel with
  | zero => simp only [decDigits, hmod]
  | succ fuel => simp only [decDigits, if_pos hm, hmod]

theorem decDigits_of_ten_le (fuel m : Nat) (hm : 10 ≤ m) :
    decDigits (fuel + 1) m = decDigits fuel (m / 10) ++ [⟨m % 10, Nat.mod_lt m (by decide)⟩] := by
  rw [decDigits, if_neg (by omega)]

/-- The digits of `m` by the size of `m`, with enough fuel: one digit, or the digits of `m / 10` and one more. -/
theorem decDigits_induction (P : Nat → List (Fin 10) → Prop) (hone : ∀ m (hm : m < 10), P m [⟨m, hm⟩])
    (hmore : ∀ m ds, 10 ≤ m → P (m / 10) ds → P m (ds ++ [⟨m % 10, Nat.mod_lt m (by decide)⟩]))
    (fuel m : Nat) (hfuel : m ≤ fuel) : P m (decDigits fuel m) := by
  induction fuel generalizing m with
  | zero => rw [decDigits_of_lt_ten 0 m (by omega)]; exact hone m _
  | succ fuel ih =>
    by_cases hm : m < 10
    · rw [decDigits_of_lt_ten _ m hm]; exact hone m hm
    · rw [decDigits_of_ten_le fuel m (by omega)]
      exact hmore m _ (by omega) (ih (m / 10) (by omega))

theorem digitsValue_decDigits (fuel m : Nat) (hfuel : m ≤ fuel) : digitsValue (decDigits fuel m) = m := by
  refine decDigits_induction (fun m ds => digitsValue ds = m) (fun m hm => ?_) (fun m ds hm ih => ?_) fuel m hfuel
  · simp [digitsValue]
  · rw [digitsValue_concat, ih]; push_cast; omega

/-- No leading zero: only zero itself begins with the digit 0. -/
theorem head?_decDigits (fuel m : Nat) (hfuel : m ≤ fuel) :
    ∃ d, (decDigits fuel m).head? = some d ∧ (d = 0 ↔ m = 0) := by
  refine decDigits_induction (fun m ds => ∃ d, ds.head? = some d ∧ (d = 0 ↔ m = 0)) (fun m hm => ?_)
    (fun m ds hm ih => ?_) fuel m hfuel
  · exact ⟨_, rfl, by simp [Fin.ext_iff]⟩
  · obtain ⟨d, hd, hzero⟩ := ih
    exact ⟨d, by simp [List.head?_append, hd], hzero.trans (by omega)⟩

theorem length_decDigits_le (fuel m k : Nat) (hfuel : m ≤ fuel) (hk : 1 ≤ k) (hm : m < 10 ^ k) :
    (decDigits fuel m).length ≤ k := by
  refine decDigits_induction (fun m ds => ∀ k, 1 ≤ k → m < 10 ^ k → ds.length ≤ k) (fun m hm k hk _ => hk)
    (fun m ds hm ih k hk hlt => ?_) fuel m hfuel k hk hm
  obtain ⟨j, rfl⟩ := Nat.exists_eq_add_of_le' hk
  have hj : 1 ≤ j := by
    rcases Nat.eq_zero_or_pos j with rfl | hpos
    · omega
    · exact hpos
  have hlen := ih j hj (by rw [pow_succ] at hlt; omega)
  simpa using hlen

/-! ### Reading a rendered result back (R181) -/

theorem foldl_readDigit_digits (ds : List (Fin 10)) :
    (ds.map Glyph.digit).foldl readDigit (some 0) = some (digitsValue ds) := by
  induction ds using List.reverseRecOn with
  | nil => rfl
  | append_singleton ds d ih => rw [List.map_append, List.foldl_append, ih, digitsValue_concat]; rfl

theorem readDecimal_digits (ds : List (Fin 10)) : readDecimal (ds.map Glyph.digit) = some (digitsValue ds) := by
  rw [← foldl_readDigit_digits]
  cases ds <;> rfl

theorem readDecimal_minus_digits (ds : List (Fin 10)) :
    readDecimal (.minus :: ds.map Glyph.digit) = some (-digitsValue ds) := by
  rw [readDecimal, foldl_readDigit_digits]; rfl

theorem decGlyphs_of_neg (v : Int) (hv : v < 0) :
    decGlyphs v = .minus :: (decDigits v.natAbs v.natAbs).map Glyph.digit := by
  simp only [decGlyphs, if_pos hv]; rfl

theorem decGlyphs_of_nonneg (v : Int) (hv : 0 ≤ v) :
    decGlyphs v = (decDigits v.natAbs v.natAbs).map Glyph.digit := by
  simp only [decGlyphs, if_neg (not_lt.mpr hv)]; rfl

theorem count_minus_digits (ds : List (Fin 10)) : (ds.map Glyph.digit).count .minus = 0 := by
  simp [List.count_eq_zero]

/-- Settles O13: by the sign, from the value and the first digit of the magnitude's digits. -/
theorem renderingReadsBack : Obligations.RenderingReadsBack := by
  intro v
  have hvalue := digitsValue_decDigits v.natAbs v.natAbs le_rfl
  obtain ⟨d, hhead, hzero⟩ := head?_decDigits v.natAbs v.natAbs le_rfl
  obtain ⟨ds, hds⟩ := List.head?_eq_some_iff.mp hhead
  rw [Int.natAbs_eq_zero] at hzero
  refine ⟨?_, ?_, ?_, ?_, by rintro rfl; rfl⟩ <;> rcases lt_or_ge v 0 with hv | hv
  · rw [decGlyphs_of_neg v hv, readDecimal_minus_digits, hvalue]; congr 1; omega
  · rw [decGlyphs_of_nonneg v hv, readDecimal_digits, hvalue]; congr 1; omega
  · rw [decGlyphs_of_neg v hv, List.count_cons_self, count_minus_digits, if_pos hv]
  · rw [decGlyphs_of_nonneg v hv, count_minus_digits, if_neg (not_lt.mpr hv)]
  · simp [decGlyphs_of_neg v hv, hv]
  · simp [decGlyphs_of_nonneg v hv, hds, hv]
  · simp [decGlyphs_of_neg v hv, hds, hzero]
  · simp [decGlyphs_of_nonneg v hv, hds, hzero]

/-! ### The length of a rendered result (R181, R32) -/

/-- A power of two from 2 on is no power of ten, so it is below the power of ten that bounds it. -/
theorem two_pow_lt_ten_pow_clog (n : Nat) (hn : 1 ≤ n) : 2 ^ n < 10 ^ Nat.clog 10 (2 ^ n) := by
  refine lt_of_le_of_ne (Nat.le_pow_clog (by decide) _) fun heq => ?_
  have hpos : 0 < Nat.clog 10 (2 ^ n) := Nat.clog_pos (by decide) (Nat.one_lt_two_pow (by omega))
  have hfive : 5 ∣ 2 ^ n := heq ▸ dvd_pow (by decide) hpos.ne'
  exact absurd (Nat.Prime.dvd_of_dvd_pow (by norm_num) hfive) (by decide)

theorem natAbs_le_of_inRange (cfg : Config) (v : Int) (hv : inRange cfg v) : v.natAbs ≤ 2 ^ (cfg.w - 1) := by
  obtain ⟨hlo, hhi⟩ := hv
  have hcast : ((2 ^ (cfg.w - 1) : Nat) : Int) = 2 ^ (cfg.w - 1) := by norm_cast
  omega

theorem length_decGlyphs_le (cfg : Config) (v : Int) (hw : 2 ≤ cfg.w) (hv : inRange cfg v) :
    (decGlyphs v).length ≤ 1 + Nat.clog 10 (2 ^ (cfg.w - 1)) := by
  have hdigits : (decDigits v.natAbs v.natAbs).length ≤ Nat.clog 10 (2 ^ (cfg.w - 1)) :=
    length_decDigits_le _ _ _ le_rfl (Nat.clog_pos (by decide) (Nat.one_lt_two_pow (by omega)))
      ((natAbs_le_of_inRange cfg v hv).trans_lt (two_pow_lt_ten_pow_clog _ (by omega)))
  rcases lt_or_ge v 0 with hneg | hnonneg
  · rw [decGlyphs_of_neg v hneg, List.length_cons, List.length_map]; omega
  · rw [decGlyphs_of_nonneg v hnonneg, List.length_map]; omega

/-- Settles O14. -/
theorem renderedLengthBound : Obligations.RenderedLengthBound := by
  intro cfg v hw hv
  have hlen := length_decGlyphs_le cfg v hw hv
  refine ⟨hlen, ?_⟩
  simp only [displayNumber, displayString, List.length_cons, List.length_map]
  omega

end Sys2Proof.Machine
end

section
/-! The keys in full: both overflow modes of a digit key and of Equals (R152, R169, R172), scripts of keys (R183, R184),
and the frame of a key event (R150, R24, R182). -/

namespace Sys2Proof.Machine

/-! ### Digit keys in both overflow modes (R152, R172) -/

theorem digitStep_of_fits (d : Fin 10) (s : State) (v : Int)
    (hv : narrow s.cfg (s.typedOperand * 10 + d.val) = .ok v) :
    digitStep d s = .next (s.withTyped v [⟨true, s.cfg.code (.digit d)⟩]) := by
  cases hp : s.pend with
  | none =>
    rw [typedOperand_of_none hp] at hv
    simp only [digitStep, hp, hv, withTyped_of_none hp]; rfl
  | some op =>
    rw [typedOperand_of_some hp] at hv
    simp only [digitStep, hp, hv, withTyped_of_some hp]; rfl

theorem digitStep_of_overflow (d : Fin 10) (s : State) (f : Fault)
    (hv : narrow s.cfg (s.typedOperand * 10 + d.val) = .error f) : digitStep d s = .fault f := by
  cases hp : s.pend with
  | none =>
    rw [typedOperand_of_none hp] at hv
    simp only [digitStep, hp, hv]
  | some op =>
    rw [typedOperand_of_some hp] at hv
    simp only [digitStep, hp, hv]

/-- Settles O16: the digit step narrows the new value of the operand it accumulates into. -/
theorem digitKeysUnderFaultMode : Obligations.DigitKeysUnderFaultMode := by
  rintro ⟨i, d⟩ hmem s ho
  obtain rfl : i = digitKey d := eq_digitKey_of_mem_digitKeys _ hmem
  have hfits (h : inRange s.cfg (s.typedOperand * 10 + d.val)) :=
    digitStep_of_fits d s _ (narrow_fault_fits s.cfg _ ho h)
  have hfault (h : ¬ inRange s.cfg (s.typedOperand * 10 + d.val)) :=
    digitStep_of_overflow d s _ (narrow_fault_overflows s.cfg _ ho h)
  simp only [exec_digitKey]
  refine ⟨fun hp h => ?_, fun hp h => ?_, fun op hp h => ?_, fun op hp h => ?_⟩
  · rw [typedOperand_of_none hp, withTyped_of_none hp] at hfits; exact hfits h
  · rw [typedOperand_of_none hp] at hfault; exact hfault h
  · rw [typedOperand_of_some hp, withTyped_of_some hp] at hfits; exact hfits h
  · rw [typedOperand_of_some hp] at hfault; exact hfault h

/-! ### Clear and Equals (R168, R169) -/

/-- Settles O20. -/
theorem clearKeyResets : Obligations.ClearKeyResets := fun s => ⟨rfl, encode_decodeKey s.cfg 0xA#4⟩

/-- Settles O21. -/
theorem equalsWithNothingPendingIsNoOp : Obligations.EqualsWithNothingPendingIsNoOp :=
  fun s hp => execKeyEq_of_nothing_pending s hp

theorem execKeyEq_of_overflow (s : State) (op : Op) (f : Fault) (hp : s.pend = some op)
    (hd : ¬ (op = .div ∧ s.op2 = 0)) (hv : compute s.cfg op s.op1 s.op2 = .error f) :
    execKeyEq s = .fault f := by
  simp only [execKeyEq, hp, if_neg hd, hv]

/-- What Equals leaves when it shows `v`, written out. -/
theorem showResult_eq (v : Int) (s : State) :
    showResult v s = { s with
      op1 := 0, op2 := 0, pend := none,
      txq := s.txq ++ (⟨false, s.cfg.cmdClear⟩ :: (decGlyphs v).map fun g => ⟨true, s.cfg.code g⟩) } := rfl

/-- Settles O22: under wrap Compute answers the wrapped result. -/
theorem equalsShowsResult : Obligations.EqualsShowsResult := by
  intro s op ho hp hd
  rw [← showResult_eq]
  exact execKeyEq_of_result s op _ hp hd (narrow_wrap _ _ ho)

/-- `2^(W-1)`, the quotient of `-2^(W-1)` by -1, does not fit. -/
theorem not_inRange_div_min (cfg : Config) : ¬ inRange cfg (mathResult .div (-(2 ^ (cfg.w - 1))) (-1)) := by
  rw [mathResult, tdiv_min_neg_one]
  exact fun h => lt_irrefl _ h.2

/-- Settles O24: Equals faults exactly where narrowing does. -/
theorem equalsUnderFaultMode : Obligations.EqualsUnderFaultMode := by
  intro s op ho hp hd
  have hfault (h : ¬ inRange s.cfg (mathResult op s.op1 s.op2)) : exec .keyEq s = .fault .overflow :=
    execKeyEq_of_overflow s op _ hp hd (narrow_fault_overflows _ _ ho h)
  refine ⟨fun h => ?_, hfault, fun hop h1 h2 => hfault ?_⟩
  · rw [← showResult_eq]
    exact execKeyEq_of_result s op _ hp hd (narrow_fault_fits _ _ ho h)
  · rw [hop, h1, h2]; exact not_inRange_div_min s.cfg

/-! ### Scripts of keys (R85, R183, R184) -/

theorem execAll_append (is js : List Instr) (s t : State) (h : execAll is s = .next t) :
    execAll (is ++ js) s = execAll js t := by
  induction is generalizing s with
  | nil => simp only [execAll, Host.Outcome.next.injEq] at h; rw [h]; rfl
  | cons i is ih =>
    simp only [List.cons_append, execAll] at h ⊢
    cases hi : exec i s with
    | next u => rw [hi] at h; exact ih u h
    | fault r => rw [hi] at h; cases h
    | refused r => rw [hi] at h; cases h

theorem execAll_singleton (i : Instr) (s t : State) (h : exec i s = .next t) : execAll [i] s = .next t := by
  simp only [execAll, h]

/-- An operator key and digits after it: they extend what `op2` holds, the digits `cs` typed before. -/
theorem execAll_operator_digits (op : Op) (cs ds : List (Fin 10)) (s : State) (ho : s.cfg.ovf = .wrap)
    (h2 : s.op2 = wrapW s.cfg (digitsValue cs)) :
    execAll ([operatorKey op] ++ ds.map digitKey) s = .next { s with
      op2 := wrapW s.cfg (digitsValue (cs ++ ds)), pend := some op,
      txq := s.txq ++ ([⟨true, s.cfg.code (opGlyph op)⟩] ++ digitEchoes s.cfg ds) } := by
  have hdigits := execAll_digits ds cs
    { s with pend := some op, txq := s.txq ++ [⟨true, s.cfg.code (opGlyph op)⟩] } ho h2
  rw [execAll_append _ _ _ _ (execAll_singleton _ _ _ (exec_operatorKey op s)), hdigits, withTyped_of_some rfl,
    List.append_assoc]

/-- Settles O19: the second operator leaves the operands, so the digits after it extend those before it. -/
theorem secondOperatorReplacesFirst : Obligations.SecondOperatorReplacesFirst := by
  rintro ⟨i, op⟩ hi ⟨j, op'⟩ hj ds es s ho _ h2
  obtain rfl : i = operatorKey op := eq_operatorKey_of_mem_operatorKeys _ hi
  obtain rfl : j = operatorKey op' := eq_operatorKey_of_mem_operatorKeys _ hj
  have hfirst := execAll_operator_digits op [] ds s ho (by simpa using h2)
  rw [List.append_assoc, execAll_append _ _ _ _ hfirst]
  refine (execAll_operator_digits op' ds es _ ?_ ?_).trans ?_
  · exact ho
  · rfl
  · simp only [List.append_assoc]

/-- Settles O25: the digits, the operator with the second digits, and Equals, each by its own rule. -/
theorem calculationShowsItsResult : Obligations.CalculationShowsItsResult := by
  rintro ⟨i, op⟩ hi da db s ho hw hc hd
  obtain rfl : i = operatorKey op := eq_operatorKey_of_mem_operatorKeys _ hi
  obtain ⟨h1, h2, hp⟩ : s.op1 = 0 ∧ s.op2 = 0 ∧ s.pend = none := by
    simpa only [State.calcState, Calc.zero, Calc.mk.injEq] using hc
  obtain ⟨-, -, hfirst, -⟩ := digitsReadPositionally da s ho hw
  have hsecond := execAll_operator_digits op [] db
    { s with op1 := wrapW s.cfg (digitsValue da), txq := s.txq ++ digitEchoes s.cfg da } ho (by simpa using h2)
  have hequals := execAll_singleton _ _ _ (equalsShowsResult
    { s with op1 := wrapW s.cfg (digitsValue da), op2 := wrapW s.cfg (digitsValue db), pend := some op,
             txq := s.txq ++ digitEchoes s.cfg da ++ ([⟨true, s.cfg.code (opGlyph op)⟩] ++ digitEchoes s.cfg db) }
    op ho rfl hd)
  rw [List.append_assoc, List.append_assoc, execAll_append _ _ _ _ (hfirst hp h1), ← List.append_assoc,
    execAll_append _ _ _ _ hsecond]
  simpa only [h1, h2, hp, List.nil_append, List.append_assoc] using hequals

/-! ### The frame of a key event (R24, R150) -/

/-- Digits typed are the same change of the Calculator State, and the same writes, in any state that has it. -/
theorem withTyped_eq_withEffect (s s' : State) (hc : s'.calcState = s.calcState) (v : Int) (ws : List LcdWrite) :
    ∃ e, s.withTyped v ws = s.withEffect e ∧ s'.withTyped v ws = s'.withEffect e := by
  obtain ⟨h1, h2, hp'⟩ : s'.op1 = s.op1 ∧ s'.op2 = s.op2 ∧ s'.pend = s.pend := by
    simpa only [State.calcState, Calc.mk.injEq] using hc
  cases hp : s.pend with
  | none =>
    refine ⟨⟨⟨v, s.op2, none⟩, ws⟩, ?_, ?_⟩
    · simp only [withTyped_of_none hp, State.withEffect, ← hp]
    · simp only [withTyped_of_none (hp'.trans hp), State.withEffect, ← h2, ← hp, ← hp']
  | some op =>
    refine ⟨⟨⟨s.op1, v, some op⟩, ws⟩, ?_, ?_⟩
    · simp only [withTyped_of_some hp, State.withEffect, ← hp]
    · simp only [withTyped_of_some (hp'.trans hp), State.withEffect, ← h1, ← hp, ← hp']

/-- What a key does to two states: the same change of the Calculator State and the same writes, or the same fault. -/
def SameKeyEffect (i : Instr) (s s' : State) : Prop :=
  (∃ e, exec i s = .next (s.withEffect e) ∧ exec i s' = .next (s'.withEffect e)) ∨
  ∃ f, exec i s = .fault f ∧ exec i s' = .fault f

theorem digitKey_sameEffect (d : Fin 10) (s s' : State) (hcfg : s'.cfg = s.cfg) (hc : s'.calcState = s.calcState) :
    SameKeyEffect (digitKey d) s s' := by
  have hx : s'.typedOperand = s.typedOperand := by
    simp only [State.calcState, Calc.mk.injEq] at hc
    simp only [State.typedOperand, hc]
  unfold SameKeyEffect
  simp only [exec_digitKey]
  cases hv : narrow s.cfg (s.typedOperand * 10 + d.val) with
  | ok v =>
    obtain ⟨e, hs, hs'⟩ := withTyped_eq_withEffect s s' hc v [⟨true, s.cfg.code (.digit d)⟩]
    refine .inl ⟨e, by rw [digitStep_of_fits d s v hv, hs], ?_⟩
    rw [digitStep_of_fits d s' v (by rw [hcfg, hx, hv]), hcfg, hs']
  | error f =>
    exact .inr ⟨f, digitStep_of_overflow d s f hv, digitStep_of_overflow d s' f (by rw [hcfg, hx, hv])⟩

theorem keyEq_sameEffect (s s' : State) (hcfg : s'.cfg = s.cfg) (hc : s'.calcState = s.calcState) :
    SameKeyEffect .keyEq s s' := by
  obtain ⟨h1, h2, hp'⟩ : s'.op1 = s.op1 ∧ s'.op2 = s.op2 ∧ s'.pend = s.pend := by
    simpa only [State.calcState, Calc.mk.injEq] using hc
  have hnone (u : State) : u = u.withEffect ⟨u.calcState, []⟩ := by simp [State.withEffect, State.calcState]
  cases hp : s.pend with
  | none =>
    refine .inl ⟨⟨s.calcState, []⟩, ?_, ?_⟩
    · rw [← hnone s]; exact execKeyEq_of_nothing_pending s hp
    · rw [← hc, ← hnone s']; exact execKeyEq_of_nothing_pending s' (hp'.trans hp)
  | some op =>
    by_cases hd : op = .div ∧ s.op2 = 0
    · obtain ⟨rfl, h0⟩ := hd
      refine .inl ⟨⟨Calc.zero, displayString s.cfg errGlyphs⟩, execKeyEq_of_zero_divisor s hp h0, ?_⟩
      rw [← hcfg]; exact execKeyEq_of_zero_divisor s' (hp'.trans hp) (h2.trans h0)
    · have hd' : ¬ (op = .div ∧ s'.op2 = 0) := by rwa [h2]
      have hcompute : compute s'.cfg op s'.op1 s'.op2 = compute s.cfg op s.op1 s.op2 := by rw [hcfg, h1, h2]
      cases hv : compute s.cfg op s.op1 s.op2 with
      | ok v =>
        refine .inl ⟨⟨Calc.zero, displayNumber s.cfg v⟩, execKeyEq_of_result s op v hp hd hv, ?_⟩
        rw [← hcfg]; exact execKeyEq_of_result s' op v (hp'.trans hp) hd' (hcompute.trans hv)
      | error f =>
        exact .inr ⟨f, execKeyEq_of_overflow s op f hp hd hv,
          execKeyEq_of_overflow s' op f (hp'.trans hp) hd' (hcompute.trans hv)⟩

/-- A key reads the parameters and the Calculator State, and nothing else. -/
theorem decodeKey_sameEffect (k : BitVec 4) (s s' : State) (hcfg : s'.cfg = s.cfg) (hc : s'.calcState = s.calcState) :
    SameKeyEffect (decodeKey k) s s' := by
  have hcalc := hc
  simp only [State.calcState, Calc.mk.injEq] at hcalc
  obtain ⟨h1, h2, -⟩ := hcalc
  cases hk : classOf k with
  | digit =>
    obtain ⟨d, -, hkey⟩ := decodeKey_of_digit k hk
    rw [hkey]; exact digitKey_sameEffect d s s' hcfg hc
  | operator =>
    rw [decodeKey_of_operator k hk]
    generalize opOfBits (k.extractLsb' 0 2) = op
    refine .inl ⟨⟨⟨s.op1, s.op2, some op⟩, [⟨true, s.cfg.code (opGlyph op)⟩]⟩, exec_operatorKey op s, ?_⟩
    rw [exec_operatorKey, ← hcfg, ← h1, ← h2]; rfl
  | clear =>
    obtain rfl := (classOf_eq_clear_iff k).mp hk
    refine .inl ⟨⟨Calc.zero, [commandWrite s.cfg.cmdClear]⟩, rfl, ?_⟩
    rw [← hcfg]; rfl
  | equals =>
    obtain rfl := (classOf_eq_equals_iff k).mp hk
    exact keyEq_sameEffect s s' hcfg hc

/-- Settles O27. -/
theorem keyFrame : Obligations.KeyFrame := by
  intro i hi s t ht
  obtain ⟨k, rfl⟩ := eq_decodeKey_of_mem_keyList i hi
  constructor
  · rcases exec_key_shape _ hi s with hf | ⟨a, b, p, ws, hn⟩
    · rw [hf] at ht; cases ht
    · rw [hn] at ht; cases ht; exact ⟨ws, rfl⟩
  · intro s' hcfg hc
    rcases decodeKey_sameEffect k s s' hcfg hc with ⟨e, hs, hs'⟩ | ⟨f, hs, -⟩
    · rw [hs] at ht; cases ht
      exact ⟨_, hs', rfl, by simp [State.withEffect]⟩
    · rw [hs] at ht; cases ht

/-! ### Which instructions clear the display (R182) -/

/-- Settles O28: what the other instructions append is nothing, or data writes. -/
theorem onlyClearAndResultsClear : Obligations.OnlyClearAndResultsClear := by
  intro i s t ht hmem
  rcases instr_kind s.cfg i with hkey | ⟨r, rfl⟩ | ⟨w, hw⟩
  · obtain ⟨k, rfl⟩ := eq_decodeKey_of_mem_keyList i hkey
    cases hk : classOf k with
    | digit =>
      obtain ⟨d, -, hd⟩ := decodeKey_of_digit k hk
      rw [hd, exec_digitKey] at ht
      obtain ⟨v, ⟨-, -, rfl⟩ | ⟨-, -, rfl⟩⟩ := digitStep_cases d s t ht <;> simp at hmem
    | operator =>
      rw [decodeKey_of_operator k hk, exec_operatorKey] at ht
      cases ht; simp at hmem
    | clear => obtain rfl := (classOf_eq_clear_iff k).mp hk; exact .inl rfl
    | equals =>
      obtain rfl := (classOf_eq_equals_iff k).mp hk
      rcases execKeyEq_cases s t ht with ⟨-, rfl⟩ | ⟨-, -, rfl⟩ | ⟨op, v, hp, hd, -, -⟩
      · simp at hmem
      · simp [returnFromDivideByZero, raiseDivideByZero, displayString, dataWrite] at hmem
      · exact .inr ⟨rfl, op, hp, hd⟩
  · rw [exec_rowSelInstr] at ht; cases ht; simp at hmem
  · rw [exec_writesWord i w s hw] at ht; cases ht; simp at hmem

end Sys2Proof.Machine
end

section
/-! The inputs a step carries along (R39, R44, R65): what an instruction or an edge does, it does whatever the switches
and the schedules of the user and of `rst_n` are, but for the samples of `PH_SAMPLE` and `PH_HOLD`. -/

namespace Sys2Proof.Machine

/-! ### The inputs of the block -/

/-- The switches as last sampled, with the schedules of what comes from outside (R44, R65, R39). -/
structure Inputs where
  closed   : BitVec 16
  keys     : List (BitVec 16)
  draws    : Nat
  rstSched : List Bool

/-- `s` with its inputs replaced by a function of them. -/
def State.mapInputs (g : Inputs → Inputs) (s : State) : State :=
  { s with
    closed   := (g ⟨s.closed, s.keys, s.draws, s.rstSched⟩).closed
    keys     := (g ⟨s.closed, s.keys, s.draws, s.rstSched⟩).keys
    draws    := (g ⟨s.closed, s.keys, s.draws, s.rstSched⟩).draws
    rstSched := (g ⟨s.closed, s.keys, s.draws, s.rstSched⟩).rstSched }

section
variable (g : Inputs → Inputs)

/-! What the instructions and the sequencer branch on is no input. -/

@[simp] theorem mapInputs_ph (s : State) : (s.mapInputs g).ph = s.ph := rfl

@[simp] theorem mapInputs_kev (s : State) : (s.mapInputs g).kev = s.kev := rfl

@[simp] theorem mapInputs_bootI (s : State) : (s.mapInputs g).bootI = s.bootI := rfl

@[simp] theorem mapInputs_lph (s : State) : (s.mapInputs g).lph = s.lph := rfl

@[simp] theorem mapInputs_txq (s : State) : (s.mapInputs g).txq = s.txq := rfl

/-! ### Instructions -/

theorem lcdWrite_mapInputs (rs : Bool) (v : Byte) (s : State) :
    lcdWrite rs v (s.mapInputs g) = (lcdWrite rs v s).mapInputs g := by
  simp only [lcdWrite, mapInputs_lph]
  cases s.lph with
  | idle => rfl
  | setup | pulse | hold => dsimp only; rw [apply_ite (State.mapInputs g)]; rfl

/-- The inputs are no part of what a key reads. -/
theorem exec_decodeKey_mapInputs (k : BitVec 4) (s : State) :
    exec (decodeKey k) (s.mapInputs g) = onNext (State.mapInputs g) (exec (decodeKey k) s) := by
  rcases decodeKey_sameEffect k s (s.mapInputs g) rfl rfl with ⟨e, hs, hg⟩ | ⟨f, hs, hg⟩
  · rw [hs, hg]; rfl
  · rw [hs, hg]; rfl

theorem exec_mapInputs (i : Instr) (s : State) :
    exec i (s.mapInputs g) = onNext (State.mapInputs g) (exec i s) := by
  rcases instr_kind s.cfg i with hkey | ⟨r, rfl⟩ | ⟨w, hw⟩
  · obtain ⟨k, rfl⟩ := eq_decodeKey_of_mem_keyList i hkey
    exact exec_decodeKey_mapInputs g k s
  · simp only [exec_rowSelInstr]; rfl
  · rw [exec_writesWord i w s hw, exec_writesWord i w (s.mapInputs g) hw, lcdWrite_mapInputs]; rfl

/-! ### The sequencer around an instruction -/

theorem popDone_mapInputs (s : State) : popDone (s.mapInputs g) = (popDone s).mapInputs g := by
  simp only [popDone, mapInputs_lph]
  cases s.lph <;> rfl

theorem bootAdvance_mapInputs (s : State) : bootAdvance (s.mapInputs g) = (bootAdvance s).mapInputs g := by
  simp only [bootAdvance, mapInputs_lph, mapInputs_bootI]
  cases s.lph with
  | idle => dsimp only; rw [apply_ite (State.mapInputs g)]; rfl
  | setup | pulse | hold => rfl

theorem afterInstr_mapInputs (s : State) : afterInstr (s.mapInputs g) = (afterInstr s).mapInputs g := by
  simp only [afterInstr, mapInputs_ph, mapInputs_kev]
  cases s.ph with
  | boot => exact bootAdvance_mapInputs g s
  | drive | stab | sample | hold | settle => rfl
  | dispatch =>
    dsimp only
    rw [apply_ite (State.mapInputs g), popDone_mapInputs]; rfl

theorem drainCycle_mapInputs (s : State) : drainCycle (s.mapInputs g) = (drainCycle s).mapInputs g := by
  simp only [drainCycle, mapInputs_txq]
  cases s.txq with
  | nil => rfl
  | cons w rest => dsimp only; rw [lcdWrite_mapInputs, popDone_mapInputs]

/-- Outside the two sampling phases an edge without an instruction takes no notice of the inputs. -/
theorem sequencerCycle_mapInputs (s : State) (hsample : s.ph ≠ .sample) (hhold : s.ph ≠ .hold) :
    sequencerCycle (s.mapInputs g) = (sequencerCycle s).mapInputs g := by
  simp only [sequencerCycle, mapInputs_ph]
  cases hph : s.ph with
  | boot | drive => rfl
  | stab | settle => dsimp only; rw [apply_ite (State.mapInputs g)]; rfl
  | sample => exact absurd hph hsample
  | hold => exact absurd hph hhold
  | dispatch => exact drainCycle_mapInputs g s

theorem nextInstr_mapInputs (s : State) : nextInstr (s.mapInputs g) = nextInstr s := rfl

theorem clockEdge_mapInputs_of_sequencerCycle (s : State)
    (h : sequencerCycle (s.mapInputs g) = (sequencerCycle s).mapInputs g) :
    clockEdge (s.mapInputs g) = onNext (State.mapInputs g) (clockEdge s) := by
  unfold clockEdge
  rw [nextInstr_mapInputs]
  cases nextInstr s with
  | none => exact congrArg _ h
  | some i =>
    dsimp only
    rw [exec_mapInputs]
    cases exec i s with
    | next t => exact congrArg _ (afterInstr_mapInputs g t)
    | fault r => rfl
    | refused r => rfl

end

/-! ### The schedule of `rst_n` (R39, R220) -/

/-- A sample is of the switches alone: it takes no notice of the schedule of `rst_n`. -/
theorem observeMatrix_withSched (rest : List Bool) (s : State) :
    observeMatrix { s with rstSched := rest } = { observeMatrix s with rstSched := rest } := by
  simp only [observeMatrix]
  cases s.keys <;> rfl

theorem afterSample_withSched (rest : List Bool) (s : State) :
    afterSample { s with rstSched := rest } = { afterSample s with rstSched := rest } := by
  have hcol : ({ s with rstSched := rest } : State).col = s.col := rfl
  simp only [afterSample, hcol]
  cases firstLow s.col <;> rfl

theorem afterHoldSample_withSched (rest : List Bool) (s : State) :
    afterHoldSample { s with rstSched := rest } = { afterHoldSample s with rstSched := rest } := by
  have hcol : ({ s with rstSched := rest } : State).col = s.col := rfl
  simp only [afterHoldSample, hcol]
  cases s.col.getLsbD (posCol s.kpos).toNat <;> rfl

theorem sequencerCycle_of_sample (s : State) (hph : s.ph = .sample) :
    sequencerCycle s = afterSample (observeMatrix s) := by
  simp only [sequencerCycle, hph]

theorem sequencerCycle_of_hold (s : State) (hph : s.ph = .hold) :
    sequencerCycle s = afterHoldSample (observeMatrix s) := by
  simp only [sequencerCycle, hph]

theorem sequencerCycle_withSched (rest : List Bool) (s : State) :
    sequencerCycle { s with rstSched := rest } = { sequencerCycle s with rstSched := rest } := by
  by_cases h : s.ph = .sample ∨ s.ph = .hold
  · rcases h with hph | hph
    · rw [sequencerCycle_of_sample s hph, sequencerCycle_of_sample { s with rstSched := rest } hph,
        observeMatrix_withSched, afterSample_withSched]
    · rw [sequencerCycle_of_hold s hph, sequencerCycle_of_hold { s with rstSched := rest } hph,
        observeMatrix_withSched, afterHoldSample_withSched]
  · obtain ⟨hsample, hhold⟩ := not_or.mp h
    exact sequencerCycle_mapInputs (fun e => { e with rstSched := rest }) s hsample hhold

theorem clockEdge_withSched (rest : List Bool) (s : State) :
    clockEdge { s with rstSched := rest } = onNext (fun t => { t with rstSched := rest }) (clockEdge s) :=
  clockEdge_mapInputs_of_sequencerCycle (fun e => { e with rstSched := rest }) s (sequencerCycle_withSched rest s)

/-- With `rst_n` high at the next edge, the edge takes that entry of its schedule and no other notice of it. -/
theorem step_high (s : State) (rest : List Bool) (h : s.rstSched = true :: rest) :
    step s = onNext (fun t => { t with rstSched := rest }) (step { s with rstSched := [] }) := by
  rw [step_of_released { s with rstSched := [] } rfl, ← clockEdge_withSched rest { s with rstSched := [] }]
  simp only [step, h]

/-- Every edge is an edge with the schedule of `rst_n` empty, or a reset. -/
theorem step_eq_released_or_reset (s t : State) (h : step s = .next t) :
    (∃ u rest, step { s with rstSched := [] } = .next u ∧ t = { u with rstSched := rest }) ∨
    ∃ rest, s.rstSched = false :: rest ∧ t = heldInReset rest s := by
  rcases hr : s.rstSched with _ | ⟨_ | _, rest⟩
  · have hs : ({ s with rstSched := [] } : State) = s := by rw [← hr]
    have hclock : step s = step { s with rstSched := [] } := by rw [hs]
    rw [hclock, step_of_released _ rfl, clockEdge_withSched [] s] at h
    obtain ⟨u, hu, rfl⟩ := onNext_eq_next h
    left
    refine ⟨{ u with rstSched := [] }, [], ?_, rfl⟩
    rw [step_of_released _ rfl, clockEdge_withSched [] s, hu]; rfl
  · right
    refine ⟨rest, rfl, ?_⟩
    simp only [step, hr] at h; cases h; rfl
  · left
    rw [step_high s rest hr] at h
    obtain ⟨u, hu, rfl⟩ := onNext_eq_next h
    exact ⟨u, rest, hu, rfl⟩

/-- Settles O57: reset writes every register out. -/
theorem resetInputRestartsTheBlock : Obligations.ResetInputRestartsTheBlock := by
  intro s rest h
  have hstep : step s = .next (heldInReset rest s) := by simp only [step, h]
  exact ⟨_, hstep, rfl, rfl, rfl, rfl, rfl, rfl, rfl, rfl, rfl, rfl, rfl, rfl, rfl, rfl, rfl, rfl, rfl⟩

/-! ### The switches (R198) -/

/-- Settles O53: outside the sampling phases the switches and the user's schedule are carried along. -/
theorem switchesSeenOnlyInSampleAndHold : Obligations.SwitchesSeenOnlyInSampleAndHold := by
  intro s m ks n h0 hsample hhold
  rw [step_of_released s h0, step_of_released _ (by exact h0)]
  have hseq := sequencerCycle_mapInputs (fun e => { e with closed := m, keys := ks, draws := n }) s hsample hhold
  exact clockEdge_mapInputs_of_sequencerCycle _ s hseq

end Sys2Proof.Machine
end

section
/-! The invariant (`Inv`): it holds at reset, every edge keeps it, and with it the bus lines are stable during a
transaction and the trace grows at its falling edges (R100, R113). -/

namespace Sys2Proof.Machine

/-! ### At reset (R43) -/

theorem legalWrite_initCommands (cfg : Config) : ∀ w ∈ initCommands cfg, legalWrite cfg w := by
  simp [initCommands, legalWrite]

theorem inv_resetWith (cfg : Config) (hw : 8 ≤ cfg.w) : Inv (State.resetWith cfg) where
  width := hw
  op1Range := inRange_zero cfg
  op2Range := inRange_zero cfg
  op2Zero _ := rfl
  writeOnly := rfl
  strobe := ⟨nofun, nofun⟩
  busPhase h := absurd rfl h
  busLines h := absurd rfl h
  keyEvent := nofun
  bootQueue _ := rfl
  queueEmpty h := absurd rfl h
  queueLegal := legalWrite_initCommands cfg
  traceLegal := nofun
  rowLegal := .inl rfl
  rowBoot _ := rfl
  rowDriven h := absurd rfl h
  latch := nofun
  delayIdle _ _ _ h := absurd rfl (h rfl)

/-- Settles O59. -/
theorem invariantAtReset : Obligations.InvariantAtReset :=
  ⟨inv_resetWith Config.reference (by decide), inv_resetWith⟩

/-! ### What the invariant says of a phase -/

section
variable {s : State} (h : Inv s)
include h

theorem Inv.one_le_width : 1 ≤ s.cfg.w := le_trans (by decide) h.width

theorem Inv.lph_idle (hboot : s.ph ≠ .boot) (hdispatch : s.ph ≠ .dispatch) : s.lph = .idle :=
  by_contra fun hbusy => (h.busPhase hbusy).elim hboot hdispatch

theorem Inv.kev_false (hph : s.ph ≠ .dispatch) : s.kev = false :=
  Bool.eq_false_iff.mpr fun hk => hph (h.keyEvent hk).1

theorem Inv.lcdE_false (hl : s.lph ≠ .pulse) : s.lcdE = false :=
  Bool.eq_false_iff.mpr fun he => hl (h.strobe.mp he)

/-! ### Edges of the scan, the press step and the delays -/

theorem Inv.countDown : Inv (countDown s) :=
  { h with delayIdle := fun hl hstab hsettle hboot => by simp [h.delayIdle hl hstab hsettle hboot] }

theorem Inv.drive (hph : s.ph = .drive) : Inv { s with
    rowPins := rowPattern s.row, rowTrace := s.rowTrace ++ [rowPattern s.row], ph := .stab,
    dly := s.cfg.cycles s.cfg.tStab } :=
  have hkev := h.kev_false (by simp [hph])
  have hidle := h.lph_idle (by simp [hph]) (by simp [hph])
  { h with
    busPhase := fun hl => absurd hidle hl
    keyEvent := fun hk => absurd hk (by simp [hkev])
    bootQueue := nofun
    queueEmpty := fun _ _ => h.queueEmpty (by simp [hph]) (by simp [hph])
    rowLegal := .inr ⟨_, rfl⟩
    rowBoot := nofun
    rowDriven := fun _ _ => rfl
    latch := nofun
    delayIdle := fun _ hstab => absurd rfl hstab }

theorem Inv.stabDone (hph : s.ph = .stab) : Inv { s with ph := .sample, dly := 0 } :=
  have hkev := h.kev_false (by simp [hph])
  have hidle := h.lph_idle (by simp [hph]) (by simp [hph])
  { h with
    busPhase := fun hl => absurd hidle hl
    keyEvent := fun hk => absurd hk (by simp [hkev])
    bootQueue := nofun
    queueEmpty := fun _ _ => h.queueEmpty (by simp [hph]) (by simp [hph])
    rowBoot := nofun
    rowDriven := fun _ _ => h.rowDriven (by simp [hph]) (by simp [hph])
    latch := nofun
    delayIdle := fun _ _ _ _ => rfl }

theorem Inv.observeMatrix : Inv (observeMatrix s) := by
  obtain ⟨m, ks, n, hobs⟩ := observeMatrix_shape s
  rw [hobs]
  exact { h with }

/-- The position found is in the row driven, and its key is latched with it. -/
theorem Inv.keyFound (hph : s.ph = .sample) (c : BitVec 2) : Inv { s with
    kpos := posOf s.row c, kcode := keyAt s.cfg (posOf s.row c), ph := .hold } :=
  have hkev := h.kev_false (by simp [hph])
  have hidle := h.lph_idle (by simp [hph]) (by simp [hph])
  have hdly := h.delayIdle hidle (by simp [hph]) (by simp [hph]) (by simp [hph])
  { h with
    busPhase := fun hl => absurd hidle hl
    keyEvent := fun hk => absurd hk (by simp [hkev])
    bootQueue := nofun
    queueEmpty := fun _ _ => h.queueEmpty (by simp [hph]) (by simp [hph])
    rowBoot := nofun
    rowDriven := fun _ _ => h.rowDriven (by simp [hph]) (by simp [hph])
    latch := fun _ => ⟨posRow_posOf s.row c, rfl⟩
    delayIdle := fun _ _ _ _ => hdly }

/-- Back to `PH_DRIVE` from a sample without a key, and from the end of a dispatch. -/
theorem Inv.toDrive (hph : s.ph = .sample ∨ s.ph = .dispatch) (hidle : s.lph = .idle) (hkev : s.kev = false)
    (hq : s.txq = []) (r : BitVec 2) : Inv { s with row := r, ph := .drive } :=
  have hdly : s.dly = 0 := by
    rcases hph with hph | hph <;> exact h.delayIdle hidle (by simp [hph]) (by simp [hph]) (by simp [hph])
  { h with
    busPhase := fun hl => absurd hidle hl
    keyEvent := fun hk => absurd hk (by simp [hkev])
    bootQueue := nofun
    queueEmpty := fun _ _ => hq
    rowBoot := nofun
    rowDriven := fun _ hdrive => absurd rfl hdrive
    latch := nofun
    delayIdle := fun _ _ _ _ => hdly }

theorem Inv.afterSample (hph : s.ph = .sample) : Inv (afterSample s) := by
  cases hc : firstLow s.col with
  | some c => rw [afterSample_of_key s c hc]; exact h.keyFound hph c
  | none =>
    rw [afterSample_of_no_key s ((firstLow_eq_none_iff _).mp hc)]
    exact h.toDrive (.inl hph) (h.lph_idle (by simp [hph]) (by simp [hph])) (h.kev_false (by simp [hph]))
      (h.queueEmpty (by simp [hph]) (by simp [hph])) _

theorem Inv.holdDone (hph : s.ph = .hold) : Inv { s with ph := .settle, dly := s.cfg.cycles s.cfg.tSettle } :=
  have hkev := h.kev_false (by simp [hph])
  have hidle := h.lph_idle (by simp [hph]) (by simp [hph])
  { h with
    busPhase := fun hl => absurd hidle hl
    keyEvent := fun hk => absurd hk (by simp [hkev])
    bootQueue := nofun
    queueEmpty := fun _ _ => h.queueEmpty (by simp [hph]) (by simp [hph])
    rowBoot := nofun
    rowDriven := fun _ _ => h.rowDriven (by simp [hph]) (by simp [hph])
    latch := fun _ => h.latch (.inl hph)
    delayIdle := fun _ _ hsettle => absurd rfl hsettle }

theorem Inv.afterHoldSample (hph : s.ph = .hold) : Inv (afterHoldSample s) := by
  unfold Machine.afterHoldSample
  split_ifs
  · exact h.holdDone hph
  · exact h

theorem Inv.settleDone (hph : s.ph = .settle) : Inv { s with ph := .dispatch, kev := true, dly := 0 } :=
  have hidle := h.lph_idle (by simp [hph]) (by simp [hph])
  { h with
    busPhase := fun hl => absurd hidle hl
    keyEvent := fun _ => ⟨rfl, h.queueEmpty (by simp [hph]) (by simp [hph]), hidle⟩
    bootQueue := nofun
    queueEmpty := fun _ hdispatch => absurd rfl hdispatch
    rowBoot := nofun
    rowDriven := fun _ _ => h.rowDriven (by simp [hph]) (by simp [hph])
    latch := fun _ => h.latch (.inr (.inl hph))
    delayIdle := fun _ _ _ _ => rfl }

end

/-! ### The key event (R20 to R23, R81 to R83) -/

/-- The clauses of the invariant on the Calculator State. -/
structure CalcInv (cfg : Config) (c : Calc) : Prop where
  op1Range : inRange cfg c.op1
  op2Range : inRange cfg c.op2
  op2Zero  : c.pend = none → c.op2 = 0

theorem Inv.calcInv {s : State} (h : Inv s) : CalcInv s.cfg s.calcState := ⟨h.op1Range, h.op2Range, h.op2Zero⟩

theorem calcInv_zero (cfg : Config) : CalcInv cfg Calc.zero := ⟨inRange_zero cfg, inRange_zero cfg, fun _ => rfl⟩

theorem legalWrite_data (cfg : Config) (g : Glyph) : legalWrite cfg ⟨true, cfg.code g⟩ := by
  rw [legalWrite, if_pos rfl]; exact code_mem_chr cfg g

theorem legalWrite_clear (cfg : Config) : legalWrite cfg ⟨false, cfg.cmdClear⟩ := by
  simp [legalWrite]

theorem legalWrite_displayString (cfg : Config) (text : List Glyph) :
    ∀ w ∈ displayString cfg text, legalWrite cfg w := by
  intro w hw
  obtain ⟨g, -, rfl⟩ := List.mem_map.mp hw
  exact legalWrite_data cfg g

theorem legalWrite_displayNumber (cfg : Config) (v : Int) : ∀ w ∈ displayNumber cfg v, legalWrite cfg w :=
  List.forall_mem_cons.mpr ⟨legalWrite_clear cfg, legalWrite_displayString cfg _⟩

/-- What a key event leaves of the invariant: `W`-bit operands, and legal writes only. -/
def KeyOutcome (s t : State) : Prop :=
  CalcInv s.cfg t.calcState ∧ ∃ ws, t.txq = s.txq ++ ws ∧ ∀ w ∈ ws, legalWrite s.cfg w

theorem digitStep_outcome (d : Fin 10) (s t : State) (hw : 1 ≤ s.cfg.w) (hc : CalcInv s.cfg s.calcState)
    (ht : digitStep d s = .next t) : KeyOutcome s t := by
  have hecho : ∀ w ∈ [(⟨true, s.cfg.code (.digit d)⟩ : LcdWrite)], legalWrite s.cfg w :=
    List.forall_mem_singleton.mpr (legalWrite_data s.cfg _)
  obtain ⟨v, ⟨hp, hv, rfl⟩ | ⟨⟨op, hp⟩, hv, rfl⟩⟩ := digitStep_cases d s t ht
  · exact ⟨⟨inRange_of_narrow s.cfg _ v hw hv, hc.op2Range, hc.op2Zero⟩, _, rfl, hecho⟩
  · refine ⟨⟨hc.op1Range, inRange_of_narrow s.cfg _ v hw hv, fun hnone => ?_⟩, _, rfl, hecho⟩
    exact absurd (hp.symm.trans hnone) (by simp)

theorem execKeyEq_outcome (s t : State) (hc : CalcInv s.cfg s.calcState) (ht : execKeyEq s = .next t) :
    KeyOutcome s t := by
  rcases execKeyEq_cases s t ht with ⟨-, rfl⟩ | ⟨-, -, rfl⟩ | ⟨op, v, -, -, -, rfl⟩
  · exact ⟨hc, [], (List.append_nil _).symm, nofun⟩
  · exact ⟨calcInv_zero s.cfg, _, rfl, legalWrite_displayString s.cfg _⟩
  · exact ⟨calcInv_zero s.cfg, _, rfl, legalWrite_displayNumber s.cfg v⟩

theorem exec_decodeKey_outcome (k : BitVec 4) (s t : State) (hw : 1 ≤ s.cfg.w) (hc : CalcInv s.cfg s.calcState)
    (ht : exec (decodeKey k) s = .next t) : KeyOutcome s t := by
  cases hk : classOf k with
  | digit =>
    obtain ⟨d, -, hd⟩ := decodeKey_of_digit k hk
    rw [hd, exec_digitKey] at ht
    exact digitStep_outcome d s t hw hc ht
  | operator =>
    rw [decodeKey_of_operator k hk, exec_operatorKey] at ht
    cases ht
    exact ⟨⟨hc.op1Range, hc.op2Range, nofun⟩, _, rfl, List.forall_mem_singleton.mpr (legalWrite_data s.cfg _)⟩
  | clear =>
    obtain rfl := (classOf_eq_clear_iff k).mp hk
    cases ht
    exact ⟨calcInv_zero s.cfg, _, rfl, List.forall_mem_singleton.mpr (legalWrite_clear s.cfg)⟩
  | equals =>
    obtain rfl := (classOf_eq_equals_iff k).mp hk
    exact execKeyEq_outcome s t hc ht

theorem Inv.keyApplied {s : State} (h : Inv s) (hph : s.ph = .dispatch) {a b : Int} {p : Option Op}
    {ws : List LcdWrite} (hc : CalcInv s.cfg ⟨a, b, p⟩) (hws : ∀ w ∈ ws, legalWrite s.cfg w) (hidle : s.lph = .idle) :
    Inv { s with op1 := a, op2 := b, pend := p, txq := s.txq ++ ws, kev := false } :=
  { h with
    op1Range := hc.op1Range
    op2Range := hc.op2Range
    op2Zero := hc.op2Zero
    busLines := fun hl => absurd hidle hl
    keyEvent := nofun
    bootQueue := fun hboot => absurd (hph.symm.trans hboot) (by simp)
    queueEmpty := fun _ hdispatch => absurd hph hdispatch
    queueLegal := List.forall_mem_append.mpr ⟨h.queueLegal, hws⟩ }

/-! ### Bus write transactions (R100, R110) -/

/-- An edge of the write at the front of the queue keeps the invariant, the write still at the front. -/
theorem Inv.lcdWrite {s : State} (h : Inv s) (hph : s.ph = .boot ∨ s.ph = .dispatch) (hkev : s.kev = false)
    (w : LcdWrite) (hw : s.txq.head? = some w) : Inv (lcdWrite w.rs w.byte s) := by
  have hlegal : legalWrite s.cfg w := h.queueLegal w (List.mem_of_mem_head? hw)
  have hstab : s.ph ≠ .stab := by rcases hph with hph | hph <;> simp [hph]
  rcases lcdWrite_cases w.rs w.byte s with ⟨hl, he⟩ | ⟨-, -, he⟩ | ⟨hl, -, he⟩ | ⟨hl, -, he⟩ | ⟨hl, -, he⟩ <;> rw [he]
  · exact { h with
      writeOnly := rfl
      strobe := by simp [h.lcdE_false (by simp [hl])]
      busPhase := fun _ => hph
      busLines := fun _ => hw
      keyEvent := fun hk => absurd hk (by simp [hkev])
      delayIdle := nofun }
  · exact h.countDown
  · exact { h with
      strobe := by simp
      busPhase := fun _ => hph
      busLines := fun _ => h.busLines (by simp [hl])
      keyEvent := fun hk => absurd hk (by simp [hkev])
      delayIdle := nofun }
  · exact { h with
      strobe := by simp
      busPhase := fun _ => hph
      busLines := fun _ => h.busLines (by simp [hl])
      keyEvent := fun hk => absurd hk (by simp [hkev])
      traceLegal := List.forall_mem_append.mpr ⟨h.traceLegal, List.forall_mem_singleton.mpr hlegal⟩
      delayIdle := nofun }
  · exact { h with
      strobe := by simp [h.lcdE_false (by simp [hl])]
      busPhase := fun hl => absurd rfl hl
      busLines := fun hl => absurd rfl hl
      keyEvent := fun hk => absurd hk (by simp [hkev])
      delayIdle := fun _ _ _ _ => rfl }

theorem popDone_of_idle (s : State) (hl : s.lph = .idle) : popDone s = { s with txq := s.txq.tail } := by
  simp only [popDone, hl]

theorem popDone_of_busy (s : State) (hl : s.lph ≠ .idle) : popDone s = s := by
  unfold popDone
  cases hl' : s.lph with
  | idle => exact absurd hl' hl
  | setup | pulse | hold => rfl

theorem Inv.popDone {s : State} (h : Inv s) (hph : s.ph = .dispatch) (hkev : s.kev = false) : Inv (popDone s) := by
  by_cases hl : s.lph = .idle
  · rw [popDone_of_idle s hl]
    exact { h with
      busLines := fun hbusy => absurd hl hbusy
      keyEvent := fun hk => absurd hk (by simp [hkev])
      bootQueue := fun hboot => absurd (hph.symm.trans hboot) (by simp)
      queueEmpty := fun _ hdispatch => absurd hph hdispatch
      queueLegal := fun w hw => h.queueLegal w (List.mem_of_mem_tail hw) }
  · rw [popDone_of_busy s hl]; exact h

theorem bootAdvance_of_last (s : State) (hl : s.lph = .idle) (hi : s.bootI = 3) :
    bootAdvance s = { s with txq := s.txq.tail, row := 0, ph := .drive } := by
  simp only [bootAdvance, hl, if_pos hi]

theorem bootAdvance_of_more (s : State) (hl : s.lph = .idle) (hi : s.bootI ≠ 3) :
    bootAdvance s = { s with txq := s.txq.tail, bootI := s.bootI + 1 } := by
  simp only [bootAdvance, hl, if_neg hi]

/-- The queue in boot, by what is left of the initialisation sequence: after the last command it is empty. -/
theorem initCommands_drop_tail (cfg : Config) (i : BitVec 2) (hi : i ≠ 3) :
    ((initCommands cfg).drop i.toNat).tail = (initCommands cfg).drop (i + 1).toNat := by
  have hnext : ∀ i : BitVec 2, i ≠ 3 → (i + 1).toNat = i.toNat + 1 := by decide
  rw [List.tail_drop, hnext i hi]

theorem Inv.bootAdvance {s : State} (h : Inv s) (hph : s.ph = .boot) (hdly : s.lph = .idle → s.dly = 0) :
    Inv (bootAdvance s) := by
  have hkev := h.kev_false (by simp [hph])
  have hq := h.bootQueue hph
  by_cases hl : s.lph = .idle
  · by_cases hi : s.bootI = 3
    · rw [bootAdvance_of_last s hl hi]
      have hempty : s.txq.tail = [] := by rw [hq, hi]; rfl
      exact { h with
        busPhase := fun hbusy => absurd hl hbusy
        busLines := fun hbusy => absurd hl hbusy
        keyEvent := fun hk => absurd hk (by simp [hkev])
        bootQueue := nofun
        queueEmpty := fun _ _ => hempty
        queueLegal := fun w hw => h.queueLegal w (List.mem_of_mem_tail hw)
        rowBoot := nofun
        rowDriven := fun _ hdrive => absurd rfl hdrive
        latch := nofun
        delayIdle := fun _ _ _ _ => hdly hl }
    · rw [bootAdvance_of_more s hl hi]
      exact { h with
        busLines := fun hbusy => absurd hl hbusy
        keyEvent := fun hk => absurd hk (by simp [hkev])
        bootQueue := fun _ => by rw [hq, initCommands_drop_tail s.cfg s.bootI hi]
        queueEmpty := fun hboot => absurd hph hboot
        queueLegal := fun w hw => h.queueLegal w (List.mem_of_mem_tail hw)
        delayIdle := fun _ _ _ _ => hdly hl }
  · rw [bootAdvance_of_busy s hl]; exact h

/-- A transaction ends with the delay counter at 0. -/
theorem lcdWrite_dly_of_idle (rs : Bool) (v : Byte) (s : State) (hl : (lcdWrite rs v s).lph = .idle) :
    (lcdWrite rs v s).dly = 0 := by
  rcases lcdWrite_cases rs v s with ⟨-, he⟩ | ⟨hbusy, -, he⟩ | ⟨-, -, he⟩ | ⟨-, -, he⟩ | ⟨-, -, he⟩ <;>
    rw [he] at hl ⊢
  · cases hl
  · exact absurd hl hbusy
  · cases hl
  · cases hl

/-- The front of the queue during boot is the command `boot_i`. -/
theorem Inv.head?_txq_of_boot {s : State} (h : Inv s) (hph : s.ph = .boot) :
    s.txq.head? = (initCommands s.cfg)[s.bootI.toNat]? := by
  rw [h.bootQueue hph, List.head?_drop]

/-! ### Every edge (R23 to R140) -/

theorem Inv.step_of_released {s t : State} (h : Inv s) (h0 : s.rstSched = []) (ht : step s = .next t) : Inv t := by
  rcases step_cases s h0 t ht with ⟨-, -, -, rfl⟩ | ⟨hph, -, w, hw, rfl⟩ | ⟨hph, rfl⟩ | ⟨-, -, rfl⟩ | ⟨hph, -, rfl⟩ |
    ⟨hph, rfl⟩ | ⟨hph, rfl⟩ | ⟨-, -, rfl⟩ | ⟨hph, -, rfl⟩ | ⟨hph, hkev, a, b, p, ws, hexec, rfl⟩ | ⟨hph, hkev, hq, rfl⟩ |
    ⟨hph, hkev, w, rest, hq, rfl⟩
  · exact h.countDown
  · have hhead := (h.head?_txq_of_boot hph).trans hw
    have hwrite := h.lcdWrite (.inl hph) (h.kev_false (by simp [hph])) w hhead
    exact hwrite.bootAdvance (by simp [hph]) (lcdWrite_dly_of_idle _ _ s)
  · exact h.drive hph
  · exact h.countDown
  · exact h.stabDone hph
  · exact h.observeMatrix.afterSample (by simp [hph])
  · exact h.observeMatrix.afterHoldSample (by simp [hph])
  · exact h.countDown
  · exact h.settleDone hph
  · obtain ⟨hc, ws', htxq, hws⟩ := exec_decodeKey_outcome s.kcode s _ h.one_le_width h.calcInv hexec
    obtain rfl : ws = ws' := List.append_cancel_left htxq
    exact h.keyApplied hph hc hws (h.keyEvent hkev).2.2
  · have hidle : s.lph = .idle := by
      by_contra hbusy
      have hline := h.busLines hbusy
      rw [hq] at hline; cases hline
    exact h.toDrive (.inr hph) hidle hkev hq 0
  · have hwrite := h.lcdWrite (.inr hph) hkev w (by rw [hq]; rfl)
    exact hwrite.popDone (by simp [hph]) (by simp [hkev])

/-- Settles O60: with `rst_n` high by the case of the edge; with it low the block is as at reset. -/
theorem stepKeepsInvariant : Obligations.StepKeepsInvariant := by
  intro s t h ht
  rcases step_eq_released_or_reset s t ht with ⟨u, rest, hu, rfl⟩ | ⟨rest, -, rfl⟩
  · have hs : Inv { s with rstSched := [] } := { h with }
    have hnext := hs.step_of_released rfl hu
    exact { hnext with }
  · have hreset := inv_resetWith s.cfg h.width
    exact { hreset with }

/-! ### The bus during and between transactions (R100, R113) -/

/-- What an edge from `s` to `t` does on the bus: the lines change only where a transaction starts, and the trace grows
only where the enable line falls, by the word on the lines. -/
structure BusEdge (s t : State) : Prop where
  during  : s.lph ≠ .idle → t.lcdRs = s.lcdRs ∧ t.lcdRw = s.lcdRw ∧ t.lcdD = s.lcdD
  between : s.lph = .idle → t.lph = .idle →
    t.lcdRs = s.lcdRs ∧ t.lcdRw = s.lcdRw ∧ t.lcdD = s.lcdD ∧ t.lcdE = s.lcdE
  accepts : (t.trace = s.trace ∧ ¬ (s.lcdE = true ∧ t.lcdE = false)) ∨
    (t.trace = s.trace ++ [⟨s.lcdRs, s.lcdD⟩] ∧ s.lcdE = true ∧ t.lcdE = false)

/-- An edge that leaves the bus and the trace alone. -/
theorem busEdge_of_unchanged {s t : State} (hrs : t.lcdRs = s.lcdRs) (hrw : t.lcdRw = s.lcdRw) (hd : t.lcdD = s.lcdD)
    (he : t.lcdE = s.lcdE) (htr : t.trace = s.trace) : BusEdge s t where
  during _ := ⟨hrs, hrw, hd⟩
  between _ _ := ⟨hrs, hrw, hd, he⟩
  accepts := .inl ⟨htr, by simp [he]⟩

theorem busEdge_lcdWrite {s : State} (h : Inv s) (w : LcdWrite) (hw : s.txq.head? = some w) :
    BusEdge s (lcdWrite w.rs w.byte s) := by
  rcases lcdWrite_cases w.rs w.byte s with ⟨hl, he⟩ | ⟨-, -, he⟩ | ⟨hl, -, he⟩ | ⟨hl, -, he⟩ | ⟨-, -, he⟩ <;> rw [he]
  · exact ⟨fun hbusy => absurd hl hbusy, nofun, .inl ⟨rfl, by simp⟩⟩
  · exact busEdge_of_unchanged rfl rfl rfl rfl rfl
  · exact ⟨fun _ => ⟨rfl, rfl, rfl⟩, nofun, .inl ⟨rfl, by simp⟩⟩
  · have hword : w = ⟨s.lcdRs, s.lcdD⟩ := Option.some.inj (hw.symm.trans (h.busLines (by simp [hl])))
    exact ⟨fun _ => ⟨rfl, rfl, rfl⟩, nofun, .inr ⟨by rw [← hword], h.strobe.mpr hl, rfl⟩⟩
  · exact busEdge_of_unchanged rfl rfl rfl rfl rfl

theorem BusEdge.bootAdvance {s t : State} (h : BusEdge s t) : BusEdge s (bootAdvance t) :=
  ⟨by simpa using h.during, by simpa using h.between, by simpa using h.accepts⟩

theorem BusEdge.popDone {s t : State} (h : BusEdge s t) : BusEdge s (popDone t) :=
  ⟨by simpa using h.during, by simpa using h.between, by simpa using h.accepts⟩

theorem Inv.busEdge {s t : State} (h : Inv s) (h0 : s.rstSched = []) (ht : step s = .next t) : BusEdge s t := by
  rcases step_cases s h0 t ht with ⟨-, -, -, rfl⟩ | ⟨hph, -, w, hw, rfl⟩ | ⟨-, rfl⟩ | ⟨-, -, rfl⟩ | ⟨-, -, rfl⟩ |
    ⟨-, rfl⟩ | ⟨-, rfl⟩ | ⟨-, -, rfl⟩ | ⟨-, -, rfl⟩ | ⟨-, -, a, b, p, ws, -, rfl⟩ | ⟨-, -, -, rfl⟩ |
    ⟨-, -, w, rest, hq, rfl⟩
  · exact busEdge_of_unchanged rfl rfl rfl rfl rfl
  · exact (busEdge_lcdWrite h w ((h.head?_txq_of_boot hph).trans hw)).bootAdvance
  · exact busEdge_of_unchanged rfl rfl rfl rfl rfl
  · exact busEdge_of_unchanged rfl rfl rfl rfl rfl
  · exact busEdge_of_unchanged rfl rfl rfl rfl rfl
  · exact busEdge_of_unchanged (by simp) (by simp) (by simp) (by simp) (by simp)
  · exact busEdge_of_unchanged (by simp) (by simp) (by simp) (by simp) (by simp)
  · exact busEdge_of_unchanged rfl rfl rfl rfl rfl
  · exact busEdge_of_unchanged rfl rfl rfl rfl rfl
  · exact busEdge_of_unchanged rfl rfl rfl rfl rfl
  · exact busEdge_of_unchanged rfl rfl rfl rfl rfl
  · exact (busEdge_lcdWrite h w (by rw [hq]; rfl)).popDone

/-- Settles O34. -/
theorem busLinesStable : Obligations.BusLinesStable :=
  fun _ _ h h0 ht => ⟨(h.busEdge h0 ht).during, (h.busEdge h0 ht).between⟩

/-- Settles O35. -/
theorem traceGrowsAtFallingEdge : Obligations.TraceGrowsAtFallingEdge :=
  fun _ _ h h0 ht => (h.busEdge h0 ht).accepts

end Sys2Proof.Machine
end

section
/-! Encoding (R70 to R83): the three kinds of instructions, each with the words of its format; what decodes to what, and
what is rejected. -/

namespace Sys2Proof.Machine

/-! ### Row selects and ROWSEL words (R72) -/

theorem encode_rowSelInstr (cfg : Config) (r : BitVec 2) : encode cfg (rowSelInstr r) = .rowsel (rowPattern r) := by
  rcases bitVec2_cases r with rfl | rfl | rfl | rfl <;> rfl

theorem decodeRowsel_rowPattern (r : BitVec 2) : decodeRowsel (rowPattern r) = .ok (rowSelInstr r) := by
  rcases bitVec2_cases r with rfl | rfl | rfl | rfl <;> rfl

/-- A word that is none of the four patterns is rejected. -/
theorem decodeRowsel_of_no_pattern (p : BitVec 4) (hp : ∀ r, p ≠ rowPattern r) :
    decodeRowsel p = .error .rowPattern := by
  have h0 : p ≠ 0b1110#4 := hp 0
  have h1 : p ≠ 0b1101#4 := hp 1
  have h2 : p ≠ 0b1011#4 := hp 2
  have h3 : p ≠ 0b0111#4 := hp 3
  simp only [decodeRowsel, if_neg h0, if_neg h1, if_neg h2, if_neg h3]

theorem eq_rowPattern_of_decodeRowsel (p : BitVec 4) (i : Instr) (h : decodeRowsel p = .ok i) :
    ∃ r, p = rowPattern r ∧ i = rowSelInstr r := by
  by_cases hp : ∀ r, p ≠ rowPattern r
  · rw [decodeRowsel_of_no_pattern p hp] at h; cases h
  · push Not at hp
    obtain ⟨r, rfl⟩ := hp
    rw [decodeRowsel_rowPattern] at h; cases h
    exact ⟨r, rfl, rfl⟩

/-! ### Display writes and LCDW words (R80, R81) -/

theorem encode_writesWord (cfg : Config) (i : Instr) (w : LcdWrite) (h : writesWord cfg i w) :
    encode cfg i = .lcdw (lcdWord w) := by
  obtain ⟨rs, byte⟩ := w
  rcases h with ⟨rfl, hi⟩ | ⟨rfl, rfl⟩
  · simp only [displayCommands, List.mem_cons, List.not_mem_nil, or_false, Prod.mk.injEq] at hi
    rcases hi with ⟨rfl, rfl⟩ | ⟨rfl, rfl⟩ | ⟨rfl, rfl⟩ | ⟨rfl, rfl⟩ <;> rfl
  · rfl

theorem decodeLcdw_data (cfg : Config) (c : Byte) : decodeLcdw cfg (lcdWord ⟨true, c⟩) = .ok (.lcdData c) := by
  obtain ⟨hrw, hrs, hd⟩ := lcdWord_fields true c
  rw [decodeLcdw_eq, hrw, hrs, hd]; rfl

/-- A command word is read by its byte, the four codes in order. -/
theorem decodeLcdw_command (cfg : Config) (c : Byte) :
    decodeLcdw cfg (lcdWord ⟨false, c⟩) =
      if c = cfg.cmdFuncset then .ok .lcdFuncset
      else if c = cfg.cmdDispon then .ok .lcdDispon
      else if c = cfg.cmdClear then .ok .lcdClear
      else if c = cfg.cmdEntry then .ok .lcdEntry
      else .error .otherCommand := by
  obtain ⟨hrw, hrs, hd⟩ := lcdWord_fields false c
  rw [decodeLcdw_eq, hrw, hrs, hd]; rfl

/-- With four different command codes, the word of a display instruction is read as that instruction. -/
theorem decodeLcdw_of_writesWord (cfg : Config) (hcfg : cfg.commandsDistinct = true) (i : Instr) (w : LcdWrite)
    (h : writesWord cfg i w) : decodeLcdw cfg (lcdWord w) = .ok i := by
  obtain ⟨rs, byte⟩ := w
  rcases h with ⟨rfl, hi⟩ | ⟨rfl, rfl⟩
  · simp only [Config.commandsDistinct, List.nodup_cons, List.mem_cons, List.not_mem_nil, or_false, not_or,
      decide_eq_true_eq] at hcfg
    obtain ⟨⟨hfd, hfc, hfe⟩, ⟨hdc, hde⟩, hce, -⟩ := hcfg
    simp only [displayCommands, List.mem_cons, List.not_mem_nil, or_false, Prod.mk.injEq] at hi
    rw [decodeLcdw_command]
    rcases hi with ⟨rfl, rfl⟩ | ⟨rfl, rfl⟩ | ⟨rfl, rfl⟩ | ⟨rfl, rfl⟩
    · rw [if_pos rfl]
    · rw [if_neg (Ne.symm hfd), if_pos rfl]
    · rw [if_neg (Ne.symm hfc), if_neg (Ne.symm hdc), if_pos rfl]
    · rw [if_neg (Ne.symm hfe), if_neg (Ne.symm hde), if_neg (Ne.symm hce), if_pos rfl]
  · exact decodeLcdw_data cfg byte

/-- A word with `RW` = 0 is the word of its `RS` and data bits. -/
theorem lcdWord_of_fields (w : BitVec 10) (hrw : w.getLsbD 8 = false) :
    lcdWord ⟨w.getLsbD 9, w.extractLsb' 0 8⟩ = w := by
  refine BitVec.eq_of_getLsbD_eq fun i hi => ?_
  simp only [lcdWord, BitVec.getLsbD_append, BitVec.getLsbD_extractLsb']
  by_cases hlow : i < 8
  · simp [hlow]
  · obtain rfl | rfl : i = 8 ∨ i = 9 := by omega
    · simpa using hrw
    · simp

theorem getLsbD_rw_of_decodeLcdw (cfg : Config) (w : BitVec 10) (i : Instr) (h : decodeLcdw cfg w = .ok i) :
    w.getLsbD 8 = false := by
  rw [decodeLcdw_eq] at h
  cases hrw : w.getLsbD 8 with
  | false => rfl
  | true => rw [hrw, if_pos rfl] at h; cases h

/-! ### The encoder and the decoder -/

/-- Settles O1, by the kind of the instruction. -/
theorem decodeEncodeAgree : Obligations.DecodeEncodeAgree := by
  intro cfg i hcfg
  rcases instr_kind cfg i with hkey | ⟨r, rfl⟩ | ⟨w, hw⟩
  · obtain ⟨k, rfl⟩ := eq_decodeKey_of_mem_keyList i hkey
    rw [encode_decodeKey]; rfl
  · rw [encode_rowSelInstr]; exact decodeRowsel_rowPattern r
  · rw [encode_writesWord cfg i w hw]; exact decodeLcdw_of_writesWord cfg hcfg i w hw

/-- Settles O2, by the format of the word. -/
theorem encodeDecodeAgree : Obligations.EncodeDecodeAgree := by
  intro cfg c i h
  cases c with
  | key k => cases h; exact encode_decodeKey cfg k
  | rowsel p =>
    obtain ⟨r, rfl, rfl⟩ := eq_rowPattern_of_decodeRowsel p i h
    exact encode_rowSelInstr cfg r
  | lcdw w =>
    have hw := lcdWord_of_fields w (getLsbD_rw_of_decodeLcdw cfg w i h)
    rw [← hw] at h
    rw [encode_writesWord cfg i _ (writesWord_of_decodeLcdw cfg _ i h), hw]

/-- Settles O3. -/
theorem specWordsDecode : Obligations.SpecWordsDecode := ⟨rfl, rfl, rfl, rfl, rfl, rfl, rfl, rfl⟩

/-- Settles O4. -/
theorem unusedWordsRejected : Obligations.UnusedWordsRejected := by
  refine ⟨fun p hp cfg => decodeRowsel_of_no_pattern p hp, fun cfg w hrw => ?_, fun cfg d hd => ?_⟩
  · exact (decodeLcdw_eq cfg w).trans (if_pos hrw)
  · simp only [List.mem_cons, List.not_mem_nil, or_false, not_or] at hd
    obtain ⟨hf, hdis, hc, he⟩ := hd
    refine (decodeLcdw_command cfg d).trans ?_
    rw [if_neg hf, if_neg hdis, if_neg hc, if_neg he]

theorem operatorKey_mem_operatorKeys (op : Op) : (operatorKey op, op) ∈ operatorKeys := by
  cases op <;> decide

theorem digitKey_mem_digitKeys : ∀ d, (digitKey d, d) ∈ digitKeys := by decide

/-- Settles O6, by the class of the code. -/
theorem keyOperandsFromCode : Obligations.KeyOperandsFromCode := by
  refine ⟨fun k h => ?_, fun k hk => ?_, fun k hk => ?_, fun k hk => ?_⟩
  · have hkey : digitKey ⟨k.toNat, h⟩ = decodeKey k := by simp [digitKey]
    exact hkey ▸ digitKey_mem_digitKeys _
  · rw [decodeKey_of_operator k hk]; exact operatorKey_mem_operatorKeys _
  · rw [(classOf_eq_clear_iff k).mp hk]; rfl
  · rw [(classOf_eq_equals_iff k).mp hk]; rfl

end Sys2Proof.Machine
end

section
/-! Row selects and the matrix (R51, R52, R121 to R124), the bus write transaction edge by edge and as a whole (R100), and
the shown text (R111, R112). -/

namespace Sys2Proof.Machine

/-! ### Row selects and the matrix -/

theorem eq_rowSelInstr_of_mem_rowSelects : ∀ p ∈ rowSelects, p.1 = rowSelInstr p.2 := by decide

/-- Settles O29. -/
theorem rowSelectsDrive : Obligations.RowSelectsDrive := by
  rintro ⟨i, r⟩ hmem s
  obtain rfl : i = rowSelInstr r := eq_rowSelInstr_of_mem_rowSelects _ hmem
  exact ⟨exec_rowSelInstr r s, encode_rowSelInstr s.cfg r⟩

/-- A column reads the complement of the switch in the driven row (R52). -/
theorem colLines_rowPattern_getLsbD (r c : BitVec 2) (m : BitVec 16) :
    (colLines (rowPattern r) m).getLsbD c.toNat = !(m.getLsbD (4 * r.toNat + c.toNat)) := by
  have hc : c.toNat < 4 := c.isLt
  rw [colLines_rowPattern, BitVec.getLsbD_not, matrixRow, BitVec.getLsbD_extractLsb']
  simp [hc]

/-- The matrix with `v` in row `r` and every other switch open. -/
def matrixOfRow (r : BitVec 2) (v : BitVec 4) : BitVec 16 := v.zeroExtend 16 <<< (4 * r.toNat)

theorem matrixRow_matrixOfRow (r : BitVec 2) (v : BitVec 4) : matrixRow (matrixOfRow r v) r.toNat = v := by
  have hr : r.toNat < 4 := r.isLt
  refine BitVec.eq_of_getLsbD_eq fun i hi => ?_
  have hin : 4 * r.toNat + i < 16 := by omega
  simp [matrixRow, matrixOfRow, hi, hin]

/-- Settles O31. -/
theorem columnsReadDrivenRow : Obligations.ColumnsReadDrivenRow := by
  refine ⟨colLines_rowPattern_getLsbD, fun r v => ⟨matrixOfRow r (~~~v), ?_⟩⟩
  rw [colLines_rowPattern, matrixRow_matrixOfRow, BitVec.not_not]

/-! ### One edge of a transaction (R100) -/

/-- Settles O32: each display instruction is an edge of its bus write. -/
theorem displayInstructionEdges : Obligations.DisplayInstructionEdges := by
  intro i w s hw
  have hexec := exec_writesWord i w s hw
  refine ⟨fun hl => ?_, fun hl hd => ?_, fun hl hd => ?_, fun hl hd => ?_, fun hl hd => ?_⟩
  · rw [hexec]; simp only [lcdWrite, hl, Config.cycles]
  · rw [hexec]; simp only [lcdWrite, hl, expired, hd, decide_true, if_true, Config.cycles]
  · rw [hexec]; simp only [lcdWrite, hl, expired, hd, decide_true, if_true, Config.cycles]
  · rw [hexec]; simp only [lcdWrite, hl, expired, hd, decide_true, if_true]
  · rw [hexec, lcdWrite_of_running _ _ s hl hd]; rfl

/-! ### Runs of one kind of edge -/

/-- `n` edges, whatever an edge is: a clock edge, or an edge of one display instruction. -/
def runEdges (edge : State → Result) : Nat → State → Result
  | 0, s => .next s
  | n + 1, s =>
    match edge s with
    | .next t    => runEdges edge n t
    | .fault r   => .fault r
    | .refused r => .refused r

theorem steps_eq_runEdges (n : Nat) (s : State) : steps n s = runEdges step n s := by
  induction n generalizing s with
  | zero => rfl
  | succ n ih => simp only [steps, runEdges, ih]; rfl

theorem execTimes_eq_runEdges (n : Nat) (i : Instr) (s : State) : execTimes n i s = runEdges (exec i) n s := by
  induction n generalizing s with
  | zero => rfl
  | succ n ih => simp only [execTimes, runEdges, ih]; rfl

theorem runEdges_one {edge : State → Result} {s t : State} (h : edge s = .next t) : runEdges edge 1 s = .next t := by
  simp only [runEdges, h]

theorem runEdges_trans {edge : State → Result} {m n : Nat} {s t : State} {r : Result}
    (hm : runEdges edge m s = .next t) (hn : runEdges edge n t = r) : runEdges edge (m + n) s = r := by
  induction m generalizing s with
  | zero => cases hm; rwa [Nat.zero_add]
  | succ m ih =>
    rw [Nat.add_right_comm]
    simp only [runEdges] at hm ⊢
    cases hs : edge s with
    | next u => rw [hs] at hm; exact ih hm
    | fault f => rw [hs] at hm; cases hm
    | refused f => rw [hs] at hm; cases hm

/-! ### A whole transaction (R100)

The edges of a transaction are those of `lcdWrite`, each with what the surroundings do when it is complete: nothing for an
instruction on its own, the pop of the queue for the sequencer. -/

/-- `u` is `s` but for the bus, its trace and the delay counter. -/
def SameButBus (s u : State) : Prop :=
  u = { s with
    lcdRs := u.lcdRs, lcdRw := u.lcdRw, lcdD := u.lcdD, lcdE := u.lcdE, lph := u.lph, dly := u.dly, trace := u.trace }

/-- From `s` on, an edge is an edge of the write `w`, followed by `done` when the transaction is complete. -/
structure WritesFrom (edge : State → Result) (done : State → State) (w : LcdWrite) (s : State) : Prop where
  edge_eq      : ∀ u, SameButBus s u → edge u = .next (done (lcdWrite w.rs w.byte u))
  done_of_busy : ∀ u, u.lph ≠ .idle → done u = u

section
variable {edge : State → Result} {done : State → State} {w : LcdWrite} {s : State}

/-- A delay within a transaction: every edge counts down until the one that leads on. -/
theorem WritesFrom.delay (h : WritesFrom edge done w s) (u t : State) (hu : SameButBus s u) (hbusy : u.lph ≠ .idle)
    (hend : ∀ d ≤ 1, done (lcdWrite w.rs w.byte { u with dly := d }) = t) (n : Nat) :
    runEdges edge (max 1 n) { u with dly := n } = .next t := by
  have hedge (d : Nat) : edge { u with dly := d } = .next (done (lcdWrite w.rs w.byte { u with dly := d })) := by
    refine h.edge_eq _ ?_
    rw [SameButBus] at hu ⊢
    rw [hu]
  induction n with
  | zero => exact runEdges_one (by rw [hedge, hend 0 (by omega)])
  | succ n ih =>
    by_cases hn : n = 0
    · subst hn
      exact runEdges_one (by rw [hedge, hend 1 le_rfl])
    · have hdown : edge { u with dly := n + 1 } = .next { u with dly := n } := by
        rw [hedge, lcdWrite_of_running _ _ { u with dly := n + 1 } hbusy (show 2 ≤ n + 1 by omega)]
        exact congrArg _ (h.done_of_busy _ hbusy)
      rw [show max 1 (n + 1) = 1 + max 1 n by omega]
      exact runEdges_trans (runEdges_one hdown) ih

/-- The transaction: its first edge, then the set-up, pulse and hold delays. -/
theorem WritesFrom.transaction (h : WritesFrom edge done w s) (hidle : s.lph = .idle) :
    runEdges edge (lcdEdges s.cfg) s = .next (done (s.sent w)) := by
  have hstart : runEdges edge 1 s = .next { s.inSetup w with dly := s.cfg.cycles s.cfg.tES } := by
    refine runEdges_one ?_
    rw [h.edge_eq s rfl, h.done_of_busy _ (by simp [lcdWrite, hidle])]
    simp only [lcdWrite, hidle]; rfl
  have hsetup := h.delay (s.inSetup w) { s.inPulse w with dly := s.cfg.cycles s.cfg.tEW } rfl nofun
    (fun d hd => by
      rw [h.done_of_busy _ (by simp [lcdWrite, expired, hd, State.inSetup])]
      simp only [lcdWrite, State.inSetup, expired, hd, decide_true, if_true]; rfl) (s.cfg.cycles s.cfg.tES)
  have hpulse := h.delay (s.inPulse w) { s.inHold w with dly := s.cfg.cycles s.cfg.tEH } rfl nofun
    (fun d hd => by
      rw [h.done_of_busy _ (by simp [lcdWrite, expired, hd, State.inPulse])]
      simp only [lcdWrite, State.inPulse, expired, hd, decide_true, if_true]; rfl) (s.cfg.cycles s.cfg.tEW)
  have hhold := h.delay (s.inHold w) (done (s.sent w)) rfl nofun
    (fun d hd => by simp only [lcdWrite, State.inHold, expired, hd, decide_true, if_true]; rfl) (s.cfg.cycles s.cfg.tEH)
  exact runEdges_trans (runEdges_trans (runEdges_trans hstart hsetup) hpulse) hhold

end

/-- Settles O33: an instruction on its own is a transaction with nothing around it. -/
theorem displayTransactionCompletes : Obligations.DisplayTransactionCompletes := by
  intro i w s hw hidle
  have hwrites : WritesFrom (exec i) id w s := by
    refine ⟨fun u hu => exec_writesWord i w u ?_, fun _ _ => rfl⟩
    rw [hu]; exact hw
  rw [execTimes_eq_runEdges, hwrites.transaction hidle]
  simp only [State.sent, State.inHold, State.inSetup, hidle, id]

/-! ### The shown text (R111, R112) -/

theorem shownText_concat (cfg : Config) (tr : List LcdWrite) (w : LcdWrite) :
    shownText cfg (tr ++ [w]) = shownStep cfg (shownText cfg tr) w := by
  simp only [shownText, List.foldl_append, List.foldl_cons, List.foldl_nil]

theorem shownStep_clear (cfg : Config) (shown : Option (List Byte)) :
    shownStep cfg shown ⟨false, cfg.cmdClear⟩ = some [] := by simp [shownStep]

theorem shownStep_other (cfg : Config) (shown : Option (List Byte)) (c : Byte) (hc : c ≠ cfg.cmdClear) :
    shownStep cfg shown ⟨false, c⟩ = shown := by simp [shownStep, hc]

/-- A character on a defined text is appended as long as the visible line has room. -/
theorem shownStep_char (cfg : Config) (text : List Byte) (ch : Byte) :
    shownStep cfg (some text) ⟨true, ch⟩ = if text.length + 1 ≤ cfg.lcdCols then some (text ++ [ch]) else none := by
  simp only [shownStep, if_true, List.length_append, List.length_singleton]
  by_cases hfits : text.length + 1 ≤ cfg.lcdCols
  · rw [if_pos hfits, if_neg (by omega)]
  · rw [if_neg hfits, if_pos (by omega)]

theorem shownStep_char_undefined (cfg : Config) (ch : Byte) : shownStep cfg none ⟨true, ch⟩ = none := rfl

/-- Settles O36. -/
theorem shownTextRules : Obligations.ShownTextRules := by
  intro cfg tr
  refine ⟨rfl, ?_, fun c hc => ?_, fun ch text htext hfits => ?_, fun ch text htext hlong => ?_, fun ch htext => ?_⟩
  · rw [shownText_concat, shownStep_clear]
  · rw [shownText_concat, shownStep_other cfg _ c hc]
  · rw [shownText_concat, htext, shownStep_char, if_pos (by simpa using hfits)]
  · rw [shownText_concat, htext, shownStep_char, if_neg (by simpa using hlong)]
  · rw [shownText_concat, htext, shownStep_char_undefined]

/-- Settles O37, by induction on the text, its last character last. -/
theorem shownTextSinceClear : Obligations.ShownTextSinceClear := by
  intro cfg tr text
  induction text using List.reverseRecOn with
  | nil => simp only [List.map_nil, shownText_concat, shownStep_clear, List.length_nil, Nat.zero_le, if_true]
  | append_singleton text b ih =>
    rw [List.map_append, List.map_singleton, ← List.cons_append, ← List.append_assoc, shownText_concat, ih,
      List.length_append, List.length_singleton]
    by_cases hfits : text.length ≤ cfg.lcdCols
    · rw [if_pos hfits, shownStep_char]
    · rw [if_neg hfits, shownStep_char_undefined, if_neg (by omega)]

end Sys2Proof.Machine
end

section
/-! The sequencer edge by edge (R190 to R199): which instruction an edge runs, where each phase leads, and what only
certain phases write. -/

namespace Sys2Proof.Machine

/-! ### The decoded instruction (R191, R195, R110) -/

/-- In `PH_DISPATCH` with a key event delivered, an edge is the key, with the event spent. -/
theorem step_key (s : State) (h0 : s.rstSched = []) (hph : s.ph = .dispatch) (hkev : s.kev = true) :
    step s = onNext (fun t => { t with kev := false }) (exec (decodeKey s.kcode) s) := by
  have hnext : nextInstr s = some (decodeKey s.kcode) := by simp only [nextInstr, hph, hkev, if_true]
  rw [step_of_released s h0]
  simp only [clockEdge, hnext]
  rcases exec_key_shape _ (decodeKey_mem_keyList s.kcode) s with hf | ⟨a, b, p, ws, hn⟩
  · rw [hf]; rfl
  · rw [hn]; simp only [onNext, afterInstr, hph, hkev, if_true]

theorem step_bootInstr (s : State) (h0 : s.rstSched = []) (hph : s.ph = .boot)
    (hwait : ¬ (s.lph = .idle ∧ s.dly ≠ 0)) : step s = onNext bootAdvance (exec (bootInstr s.bootI) s) := by
  obtain ⟨w, hw, hi⟩ := bootInstr_writesWord s
  rw [step_boot_command s w h0 hph hwait hi, exec_writesWord _ w s hw]; rfl

theorem firstLow_rowPattern (r : BitVec 2) : firstLow (rowPattern r) = some r := by
  rcases bitVec2_cases r with rfl | rfl | rfl | rfl <;> rfl

/-- `withNext` places an instruction where the next edge runs it, whatever its format. -/
theorem nextInstr_withNext (s : State) (i : Instr) (hcfg : s.cfg.commandsDistinct = true) :
    nextInstr (s.withNext i) = some i ∧ (s.withNext i).rstSched = [] := by
  rcases instr_kind s.cfg i with hkey | ⟨r, rfl⟩ | ⟨w, hw⟩
  · obtain ⟨k, rfl⟩ := eq_decodeKey_of_mem_keyList i hkey
    simp only [State.withNext, encode_decodeKey, nextInstr, if_true, and_self]
  · simp only [State.withNext, encode_rowSelInstr, nextInstr, firstLow_rowPattern, Option.getD_some, and_self]
  · obtain ⟨-, hrs, hd⟩ := lcdWord_fields w.rs w.byte
    simp only [State.withNext, encode_writesWord s.cfg i w hw, hrs, hd, nextInstr, Bool.false_eq_true, if_false,
      decodeLcdw_of_writesWord s.cfg hcfg i w hw, Except.toOption, and_self]

/-- Settles O38. -/
theorem stepRunsDecodedInstruction : Obligations.StepRunsDecodedInstruction := by
  refine ⟨fun s i h0 hph hkev hi => ?_, fun s i w rest h0 hph hkev hq hi => ?_, fun s i h0 hph hi => ?_,
    step_bootInstr, step_high, fun s i hcfg => ?_⟩
  · cases hi; exact step_key s h0 hph hkev
  · rw [step_drain s w rest h0 hph hkev hq, exec_writesWord i w s (writesWord_of_decodeLcdw s.cfg w i hi)]; rfl
  · obtain rfl : rowSelInstr s.row = i := Except.ok.inj ((decodeRowsel_rowPattern s.row).symm.trans hi)
    rw [step_drive s h0 hph, exec_rowSelInstr]; rfl
  · obtain ⟨hnext, h0⟩ := nextInstr_withNext s i hcfg
    rw [step_of_released _ h0]
    simp only [clockEdge, hnext]

/-! ### The phases (R191) -/

theorem bootAdvance_ph (s : State) : (bootAdvance s).ph = s.ph ∨ (bootAdvance s).ph = .drive := by
  unfold bootAdvance
  cases s.lph with
  | idle => dsimp only; split_ifs <;> simp
  | setup | pulse | hold => exact .inl rfl

theorem afterSample_ph (s : State) : (afterSample s).ph = .hold ∨ (afterSample s).ph = .drive := by
  unfold afterSample
  cases firstLow s.col with
  | some c => exact .inl rfl
  | none => exact .inr rfl

theorem afterHoldSample_ph (s : State) : (afterHoldSample s).ph = s.ph ∨ (afterHoldSample s).ph = .settle := by
  unfold afterHoldSample
  split_ifs
  · exact .inr rfl
  · exact .inl rfl

/-- Settles O39. -/
theorem phasesFollowTheTable : Obligations.PhasesFollowTheTable := by
  refine ⟨fun p => by cases p <;> decide, fun s t h0 ht => ?_⟩
  rcases step_cases s h0 t ht with ⟨-, -, -, rfl⟩ | ⟨hph, -, w, -, rfl⟩ | ⟨hph, rfl⟩ | ⟨-, -, rfl⟩ | ⟨hph, -, rfl⟩ |
    ⟨hph, rfl⟩ | ⟨hph, rfl⟩ | ⟨-, -, rfl⟩ | ⟨hph, -, rfl⟩ | ⟨-, -, a, b, p, ws, -, rfl⟩ | ⟨hph, -, -, rfl⟩ |
    ⟨-, -, w, rest, -, rfl⟩
  · exact .inl rfl
  · rcases bootAdvance_ph (lcdWrite w.rs w.byte s) with h | h
    · left; rw [h, lcdWrite_ph]
    · right; rw [h, hph]; decide
  · right; rw [hph]; exact List.mem_singleton_self _
  · exact .inl rfl
  · right; rw [hph]; exact List.mem_singleton_self _
  · right; rw [hph]; rcases afterSample_ph (observeMatrix s) with h | h <;> rw [h] <;> decide
  · rcases afterHoldSample_ph (observeMatrix s) with h | h
    · left; rw [h, observeMatrix_ph]
    · right; rw [h, hph]; decide
  · exact .inl rfl
  · right; rw [hph]; exact List.mem_singleton_self _
  · exact .inl rfl
  · right; rw [hph]; exact List.mem_singleton_self _
  · left; rw [popDone_ph, lcdWrite_ph]

/-! ### Delays, the hold and the settle delay (R29, R131, R194) -/

theorem step_stab_running (s : State) (h0 : s.rstSched = []) (hph : s.ph = .stab) (hd : 2 ≤ s.dly) :
    step s = .next (countDown s) := by
  rw [step_stab s h0 hph, if_neg (by simp [expired]; omega)]

theorem step_stab_expired (s : State) (h0 : s.rstSched = []) (hph : s.ph = .stab) (hd : s.dly ≤ 1) :
    step s = .next { s with ph := .sample, dly := 0 } := by
  rw [step_stab s h0 hph, if_pos (by simpa [expired] using hd)]

theorem step_settle_running (s : State) (h0 : s.rstSched = []) (hph : s.ph = .settle) (hd : 2 ≤ s.dly) :
    step s = .next (countDown s) := by
  rw [step_settle s h0 hph, if_neg (by simp [expired]; omega)]

theorem step_settle_expired (s : State) (h0 : s.rstSched = []) (hph : s.ph = .settle) (hd : s.dly ≤ 1) :
    step s = .next { s with ph := .dispatch, kev := true, dly := 0 } := by
  rw [step_settle s h0 hph, if_pos (by simpa [expired] using hd)]

theorem steps_stab (s : State) (h0 : s.rstSched = []) (hph : s.ph = .stab) :
    steps (max 1 s.dly) s = .next { s with ph := .sample, dly := 0 } :=
  steps_delay s.dly _ (fun u => u.rstSched = [] ∧ u.ph = .stab)
    (fun u hu hd => ⟨step_stab_running u hu.1 hu.2 hd, hu⟩) s ⟨h0, hph⟩ rfl
    (fun d hd => step_stab_expired { s with dly := d } h0 hph hd)

theorem steps_settle (s : State) (h0 : s.rstSched = []) (hph : s.ph = .settle) :
    steps (max 1 s.dly) s = .next { s with ph := .dispatch, kev := true, dly := 0 } :=
  steps_delay s.dly _ (fun u => u.rstSched = [] ∧ u.ph = .settle)
    (fun u hu hd => ⟨step_settle_running u hu.1 hu.2 hd, hu⟩) s ⟨h0, hph⟩ rfl
    (fun d hd => step_settle_expired { s with dly := d } h0 hph hd)

/-- Settles O40. -/
theorem delaysTakeTheirCycles : Obligations.DelaysTakeTheirCycles := by
  refine fun s h0 => ⟨steps_stab s h0, steps_settle s h0, fun hph hd => ?_⟩
  rcases hph with hph | hph
  · exact step_stab_running s h0 hph hd
  · exact step_settle_running s h0 hph hd

theorem step_hold_released (s : State) (h0 : s.rstSched = []) (hph : s.ph = .hold)
    (hcol : (observeMatrix s).col.getLsbD (posCol s.kpos).toNat = true) :
    step s = .next { observeMatrix s with ph := .settle, dly := s.cfg.cycles s.cfg.tSettle } := by
  rw [step_hold s h0 hph, ← observeMatrix_cfg s, afterHoldSample]
  exact congrArg _ (if_pos (by rwa [observeMatrix_kpos]))

theorem step_hold_pressed (s : State) (h0 : s.rstSched = []) (hph : s.ph = .hold)
    (hcol : (observeMatrix s).col.getLsbD (posCol s.kpos).toNat = false) : step s = .next (observeMatrix s) := by
  rw [step_hold s h0 hph, afterHoldSample, observeMatrix_kpos, if_neg (by simp [hcol])]

/-- Settles O42. -/
theorem holdAndSettleTransitions : Obligations.HoldAndSettleTransitions :=
  fun s h0 => ⟨step_hold_released s h0, step_hold_pressed s h0, step_settle_expired s h0, step_settle_running s h0⟩

theorem observeMatrix_of_scheduled (s : State) (m : BitVec 16) (rest : List (BitVec 16)) (hk : s.keys = m :: rest) :
    observeMatrix s = { s with closed := m, keys := rest } := by
  simp only [observeMatrix, hk]

/-- Settles O46, by induction on the samples. -/
theorem holdLastsWhileKeyIsDown : Obligations.HoldLastsWhileKeyIsDown := by
  intro s ms rest h0 hph hk hlow
  induction ms generalizing s with
  | nil =>
    obtain rfl : s.keys = rest := hk
    rfl
  | cons m ms ih =>
    have hobs := observeMatrix_of_scheduled s m (ms ++ rest) hk
    have hstep := step_hold_pressed s h0 hph (by rw [hobs]; exact hlow m List.mem_cons_self)
    rw [hobs] at hstep
    rw [List.length_cons, Nat.add_comm, steps_add _ _ _ _ (steps_one _ _ hstep),
      ih { s with closed := m, keys := ms ++ rest } h0 hph rfl fun x hx => hlow x (List.mem_cons_of_mem m hx),
      List.getLast?_cons, Option.getD_some]

/-! ### What only certain phases write -/

/-- Settles O52: every other edge leaves the operands and the pending operator alone. -/
theorem onlyKeyEventsWriteCalculatorState : Obligations.OnlyKeyEventsWriteCalculatorState := by
  intro s t h0 ht hne
  rcases step_cases s h0 t ht with ⟨-, -, -, rfl⟩ | ⟨-, -, w, -, rfl⟩ | ⟨-, rfl⟩ | ⟨-, -, rfl⟩ | ⟨-, -, rfl⟩ |
    ⟨-, rfl⟩ | ⟨-, rfl⟩ | ⟨-, -, rfl⟩ | ⟨-, -, rfl⟩ | ⟨hph, hkev, -⟩ | ⟨-, -, -, rfl⟩ | ⟨-, -, w, rest, -, rfl⟩
  pick_goal 10
  · exact ⟨hph, hkev⟩
  all_goals exact absurd (by simp [State.calcState]) hne

/-- Settles O54: in `PH_DRIVE` a row select, elsewhere nothing writes the row lines. -/
theorem onlyDriveWritesRowLines : Obligations.OnlyDriveWritesRowLines := by
  intro s t h0 ht
  rcases step_cases s h0 t ht with ⟨hph, -, -, rfl⟩ | ⟨hph, -, w, -, rfl⟩ | ⟨hph, rfl⟩ | ⟨hph, -, rfl⟩ | ⟨hph, -, rfl⟩ |
    ⟨hph, rfl⟩ | ⟨hph, rfl⟩ | ⟨hph, -, rfl⟩ | ⟨hph, -, rfl⟩ | ⟨hph, -, a, b, p, ws, -, rfl⟩ | ⟨hph, -, -, rfl⟩ |
    ⟨hph, -, w, rest, -, rfl⟩
  pick_goal 3
  · exact ⟨fun hne => absurd hph hne, fun _ => ⟨rfl, rfl⟩⟩
  all_goals exact ⟨fun _ => by simp, fun hdrive => absurd (hph.symm.trans hdrive) (by simp)⟩

theorem cfg_of_released {s t : State} (h0 : s.rstSched = []) (ht : step s = .next t) : t.cfg = s.cfg := by
  rcases step_cases s h0 t ht with ⟨-, -, -, rfl⟩ | ⟨-, -, w, -, rfl⟩ | ⟨-, rfl⟩ | ⟨-, -, rfl⟩ | ⟨-, -, rfl⟩ |
    ⟨-, rfl⟩ | ⟨-, rfl⟩ | ⟨-, -, rfl⟩ | ⟨-, -, rfl⟩ | ⟨-, -, a, b, p, ws, -, rfl⟩ | ⟨-, -, -, rfl⟩ |
    ⟨-, -, w, rest, -, rfl⟩ <;> simp

/-- Settles O55. -/
theorem parametersAreConstant : Obligations.ParametersAreConstant := by
  intro s t ht
  rcases step_eq_released_or_reset s t ht with ⟨u, rest, hu, rfl⟩ | ⟨rest, -, rfl⟩
  · have hkept : u.cfg = s.cfg := cfg_of_released (s := { s with rstSched := [] }) rfl hu
    exact hkept
  · rfl

end Sys2Proof.Machine
end

section
/-! Runs (R120 to R136, R190 to R195, R222): boot, a scan pass, the press step, a key event with its display writes, and
one press as a whole. -/

namespace Sys2Proof.Machine

/-- Two runs, one after the other. -/
theorem steps_trans {m n : Nat} {s t : State} {r : Result} (hm : steps m s = .next t) (hn : steps n t = r) :
    steps (m + n) s = r := (steps_add m n s t hm).trans hn

/-! ### Boot (R222) -/

/-- Settles O50. -/
theorem bootRunsToTheFirstScan : Obligations.BootRunsToTheFirstScan := fun cfg ks => (bootRun_reset cfg ks).1

/-! ### One row of a scan pass (R125 to R130) -/

/-- The columns of a sample with a row driven are the complement of that row of the switches. -/
theorem col_of_driven (s : State) (r : BitVec 2) (hpins : s.rowPins = rowPattern r) :
    s.col = ~~~matrixRow s.closed r.toNat := by
  rw [State.col, hpins, colLines_rowPattern]

/-- `s` with its row driven and stable, at the sample. -/
def State.stabilised (s : State) : State :=
  { s with ph := .sample, dly := 0, rowPins := rowPattern s.row, rowTrace := s.rowTrace ++ [rowPattern s.row] }

/-- `s` with its row driven and the matrix `m` sampled, the schedule `rest` to come. -/
def State.sampled (s : State) (m : BitVec 16) (rest : List (BitVec 16)) : State :=
  { s.stabilised with closed := m, keys := rest }

/-- The edges of one row: the row select, the stabilisation delay, the sample. -/
theorem steps_row (s : State) (m : BitVec 16) (rest : List (BitVec 16)) (h0 : s.rstSched = []) (hph : s.ph = .drive)
    (hk : s.keys = m :: rest) :
    steps (2 + delayEdges s.cfg s.cfg.tStab) s = .next (afterSample (s.sampled m rest)) := by
  have hstab := steps_trans (steps_one _ _ (step_drive s h0 hph)) (steps_stab _ h0 rfl)
  have hobs : observeMatrix s.stabilised = s.sampled m rest := observeMatrix_of_scheduled s.stabilised m rest hk
  have hsample : step s.stabilised = .next (afterSample (s.sampled m rest)) := by
    rw [step_sample s.stabilised h0 rfl, hobs]
  have hedges : 2 + delayEdges s.cfg s.cfg.tStab = 1 + max 1 (s.cfg.cycles s.cfg.tStab) + 1 := by
    rw [delayEdges]; omega
  rw [hedges]
  exact steps_trans hstab (steps_one _ _ hsample)

/-- `s` after a row that read open: the next row is to be driven. -/
def State.passedRow (s : State) (m : BitVec 16) (rest : List (BitVec 16)) : State :=
  { s with
    row := s.row + 1, dly := 0, rowPins := rowPattern s.row, rowTrace := s.rowTrace ++ [rowPattern s.row],
    closed := m, keys := rest }

/-- A row whose sample reads open: the next row, at `PH_DRIVE`. -/
theorem steps_row_open (s : State) (m : BitVec 16) (rest : List (BitVec 16)) (h0 : s.rstSched = [])
    (hph : s.ph = .drive) (hk : s.keys = m :: rest) (hm : matrixRow m s.row.toNat = 0) :
    steps (2 + delayEdges s.cfg s.cfg.tStab) s = .next (s.passedRow m rest) := by
  have hcol : (s.sampled m rest).col = 0b1111#4 := by
    rw [col_of_driven _ s.row rfl]
    exact congrArg (~~~ ·) hm
  rw [steps_row s m rest h0 hph hk, afterSample_of_no_key _ hcol, ← hph]; rfl

/-- A row whose sample finds a key: its position and its key are latched. -/
theorem steps_row_key (s : State) (m : BitVec 16) (rest : List (BitVec 16)) (c : BitVec 2) (h0 : s.rstSched = [])
    (hph : s.ph = .drive) (hk : s.keys = m :: rest) (hc : firstLow (~~~matrixRow m s.row.toNat) = some c) :
    steps (2 + delayEdges s.cfg s.cfg.tStab) s = .next { s with
      kpos := posOf s.row c, kcode := keyAt s.cfg (posOf s.row c), ph := .hold, dly := 0,
      rowPins := rowPattern s.row, rowTrace := s.rowTrace ++ [rowPattern s.row], closed := m, keys := rest } := by
  have hcol : firstLow (s.sampled m rest).col = some c := by
    rw [col_of_driven _ s.row rfl]; exact hc
  rw [steps_row s m rest h0 hph hk, afterSample_of_key _ c hcol]; rfl

/-! ### A scan pass (R127 to R130) -/

/-- Settles O43: four rows that read open, one after the other. -/
theorem scanPassWithoutKey : Obligations.ScanPassWithoutKey := by
  intro s m0 m1 m2 m3 rest h0 hph hrow hk hopen0 hopen1 hopen2 hopen3
  let s1 := s.passedRow m0 (m1 :: m2 :: m3 :: rest)
  let s2 := s1.passedRow m1 (m2 :: m3 :: rest)
  let s3 := s2.passedRow m2 (m3 :: rest)
  obtain ⟨hrow1, hrow2, hrow3⟩ : s1.row = 1 ∧ s2.row = 2 ∧ s3.row = 3 := by
    simp only [s1, s2, s3, State.passedRow, hrow]; decide
  have hfirst := steps_row_open s m0 _ h0 hph hk (by rw [hrow]; exact hopen0)
  have hsecond := steps_row_open s1 m1 _ h0 hph rfl (by rw [hrow1]; exact hopen1)
  have hthird := steps_row_open s2 m2 _ h0 hph rfl (by rw [hrow2]; exact hopen2)
  have hfourth := steps_row_open s3 m3 _ h0 hph rfl (by rw [hrow3]; exact hopen3)
  have hedges (n : Nat) : 4 * n = n + n + n + n := by ring
  rw [hedges]
  refine (steps_trans (steps_trans (steps_trans hfirst hsecond) hthird) hfourth).trans ?_
  simp only [s1, s2, s3, State.passedRow, hrow, List.append_assoc]; rfl

/-- From `PH_DRIVE` with row `j`: the rows that read open are passed over, and the key found is in the first that does
not. -/
theorem steps_scan_finds (ms rest : List (BitVec 16)) (m : BitVec 16) (c : BitVec 2) (s : State) (j : Nat)
    (h0 : s.rstSched = []) (hph : s.ph = .drive) (hrow : s.row = BitVec.ofNat 2 j) (hj : j + ms.length ≤ 3)
    (hk : s.keys = ms ++ m :: rest) (hopen : ∀ i, i < ms.length → matrixRow (ms.getD i 0) (j + i) = 0)
    (hc : firstLow (~~~matrixRow m (j + ms.length)) = some c) :
    steps ((ms.length + 1) * (2 + delayEdges s.cfg s.cfg.tStab)) s = .next { s with
      row := BitVec.ofNat 2 (j + ms.length), kpos := posOf (BitVec.ofNat 2 (j + ms.length)) c,
      kcode := keyAt s.cfg (posOf (BitVec.ofNat 2 (j + ms.length)) c), ph := .hold, dly := 0,
      rowPins := rowPattern (BitVec.ofNat 2 (j + ms.length)),
      rowTrace := s.rowTrace ++ (List.range' j (ms.length + 1)).map fun i => rowPattern (BitVec.ofNat 2 i),
      closed := m, keys := rest } := by
  have hrowNat : s.row.toNat = j := by rw [hrow, BitVec.toNat_ofNat, Nat.mod_eq_of_lt (by omega)]
  induction ms generalizing s j with
  | nil =>
    have hkey := steps_row_key s m rest c h0 hph hk (by rw [hrowNat]; exact hc)
    simpa only [List.length_nil, Nat.zero_add, Nat.one_mul, Nat.add_zero, List.range'_one, List.map_singleton, ← hrow]
      using hkey
  | cons m0 ms ih =>
    rw [List.length_cons] at hj hc ⊢
    have hshift : j + (ms.length + 1) = j + 1 + ms.length := by omega
    rw [hshift] at hj hc ⊢
    have hnext : (s.passedRow m0 (ms ++ m :: rest)).row = BitVec.ofNat 2 (j + 1) := by
      rw [State.passedRow, hrow, BitVec.ofNat_add]; rfl
    have hopen0 := steps_row_open s m0 (ms ++ m :: rest) h0 hph hk (by rw [hrowNat]; exact hopen 0 (by simp))
    rw [Nat.add_mul, Nat.one_mul, Nat.add_comm]
    refine steps_trans hopen0 ((ih (s.passedRow m0 (ms ++ m :: rest)) (j + 1) h0 hph hnext hj rfl (fun i hi => ?_) hc ?_).trans ?_)
    · rw [Nat.add_right_comm]; exact hopen (i + 1) (by simpa using hi)
    · rw [hnext, BitVec.toNat_ofNat, Nat.mod_eq_of_lt (by omega)]
    · simp only [State.passedRow, List.range'_succ, List.map_cons, List.append_assoc, List.singleton_append, hrow]

/-- `s` after a pass that found a key in row `j`, column `c`, with the matrix `m` sampled there. -/
def State.found (s : State) (j : Nat) (c : BitVec 2) (m : BitVec 16) (rest : List (BitVec 16)) : State :=
  { s with
    row := BitVec.ofNat 2 j, kpos := posOf (BitVec.ofNat 2 j) c, kcode := keyAt s.cfg (posOf (BitVec.ofNat 2 j) c),
    ph := .hold, dly := 0, rowPins := rowPattern (BitVec.ofNat 2 j),
    rowTrace := s.rowTrace ++ (List.range (j + 1)).map fun i => rowPattern (BitVec.ofNat 2 i),
    closed := m, keys := rest }

/-- Settles O44: a scan from row 0. -/
theorem scanPassFindsFirstKey : Obligations.ScanPassFindsFirstKey := by
  intro s ms rest m c h0 hph hrow hlen hk hopen hc
  have hscan := steps_scan_finds ms rest m c s 0 h0 hph hrow (by omega) hk
    (fun i hi => by rw [Nat.zero_add]; exact hopen i hi) (by rwa [Nat.zero_add])
  simpa only [Nat.zero_add, ← List.range_eq_range'] using hscan

/-! ### The press step (R131 to R135) -/

/-- `s` at the start of the settle delay, the key's column seen high in the matrix `m`. -/
def State.released (s : State) (m : BitVec 16) (rest : List (BitVec 16)) : State :=
  { s with ph := .settle, dly := s.cfg.cycles s.cfg.tSettle, closed := m, keys := rest }

/-- The hold, whatever its length, and the settle delay, to the delivery of the key event. -/
theorem steps_hold_settle (s : State) (high : BitVec 16) (lows rest : List (BitVec 16)) (h0 : s.rstSched = [])
    (hph : s.ph = .hold) (hk : s.keys = lows ++ high :: rest)
    (hlows : ∀ x ∈ lows, (colLines s.rowPins x).getLsbD (posCol s.kpos).toNat = false)
    (hhigh : (colLines s.rowPins high).getLsbD (posCol s.kpos).toNat = true) :
    steps (lows.length + 1 + delayEdges s.cfg s.cfg.tSettle) s = .next { s with
      ph := .dispatch, kev := true, dly := 0, closed := high, keys := rest } := by
  have hdown := holdLastsWhileKeyIsDown s lows (high :: rest) h0 hph hk hlows
  have hrelease := step_hold_released
    { s with closed := lows.getLast?.getD s.closed, keys := high :: rest } h0 hph hhigh
  have hsettle := steps_settle (s.released high rest) h0 rfl
  exact steps_trans (steps_trans hdown (steps_one _ (s.released high rest) hrelease)) hsettle

/-- `s` with the key of column `c` of the driven row latched, found in the matrix `m`. -/
def State.detected (s : State) (c : BitVec 2) (m : BitVec 16) (rest : List (BitVec 16)) : State :=
  { s with kpos := posOf s.row c, kcode := keyAt s.cfg (posOf s.row c), ph := .hold, closed := m, keys := rest }

/-- Settles O45: the sample that finds the key, then the hold and the settle delay. -/
theorem pressStepIsAtomic : Obligations.PressStepIsAtomic := by
  intro s c m high lows rest h0 hph hk hc hlows hhigh
  have hsample : firstLow ({ s with closed := m, keys := lows ++ high :: rest } : State).col = some c := hc
  have hfound : step s = .next (s.detected c m (lows ++ high :: rest)) := by
    rw [step_sample s h0 hph, observeMatrix_of_scheduled s m _ hk, afterSample_of_key _ c hsample]; rfl
  have hcol : posCol (s.detected c m (lows ++ high :: rest)).kpos = c := posCol_posOf s.row c
  have hpress := steps_hold_settle (s.detected c m (lows ++ high :: rest)) high lows rest h0 rfl rfl
    (by rw [hcol]; exact hlows) (by rw [hcol]; exact hhigh)
  rw [Nat.add_assoc]
  exact steps_trans (steps_one _ _ hfound) hpress

/-! ### Queued writes (R32, R62, R195) -/

/-- The write at the front of the queue, from idle to idle. -/
theorem steps_front_write (s : State) (w : LcdWrite) (rest : List LcdWrite) (h0 : s.rstSched = [])
    (hph : s.ph = .dispatch) (hkev : s.kev = false) (hidle : s.lph = .idle) (hq : s.txq = w :: rest) :
    steps (lcdEdges s.cfg) s = .next { s.sent w with txq := rest } := by
  have hwrites : WritesFrom step popDone w s := by
    refine ⟨fun u hu => step_drain u w rest ?_ ?_ ?_ ?_, popDone_of_busy⟩ <;> rw [hu] <;> assumption
  rw [steps_eq_runEdges, hwrites.transaction hidle, popDone_of_idle (s.sent w) rfl]
  simp only [State.sent, State.inHold, State.inSetup, hq, List.tail_cons]

/-- `t` is `s` with the writes `ws` performed: the trace has gained them, and the last is on the bus lines. -/
structure Sent (s : State) (ws : List LcdWrite) (t : State) : Prop where
  frame : t = { s with
    lcdRs := t.lcdRs, lcdRw := t.lcdRw, lcdD := t.lcdD, lcdE := t.lcdE, dly := t.dly, trace := s.trace ++ ws,
    txq := t.txq }
  lines : ∀ w, ws.getLast? = some w → t.lcdRs = w.rs ∧ t.lcdD = w.byte ∧ t.lcdE = false ∧ t.lcdRw = false

/-- Any writes at the front of the queue are performed in order, by induction from the last one. -/
theorem steps_queued_writes (ws : List LcdWrite) (s : State) (rest : List LcdWrite) (h0 : s.rstSched = [])
    (hph : s.ph = .dispatch) (hkev : s.kev = false) (hidle : s.lph = .idle) (hq : s.txq = ws ++ rest) :
    ∃ t, steps (ws.length * lcdEdges s.cfg) s = .next t ∧ t.txq = rest ∧ Sent s ws t := by
  induction ws using List.reverseRecOn generalizing rest with
  | nil =>
    refine ⟨s, by rw [List.length_nil, Nat.zero_mul]; rfl, hq, ?_, nofun⟩
    simp only [List.append_nil]
  | append_singleton ws w ih =>
    obtain ⟨u, hrun, hqu, hsent⟩ := ih (w :: rest) (by simpa using hq)
    have hfield {α : Type} (f : State → α) := congrArg f hsent.frame
    have hcfg : u.cfg = s.cfg := hfield State.cfg
    have hlast := steps_front_write u w rest ((hfield State.rstSched).trans h0) ((hfield State.ph).trans hph)
      ((hfield State.kev).trans hkev) ((hfield State.lph).trans hidle) hqu
    refine ⟨{ u.sent w with txq := rest }, ?_, rfl, ?_, fun w' hw' => ?_⟩
    · rw [List.length_append, List.length_singleton, Nat.add_mul, Nat.one_mul]
      exact steps_trans hrun (hcfg ▸ hlast)
    · rw [hsent.frame]
      simp only [State.sent, State.inHold, State.inSetup, List.append_assoc, hidle]
    · rw [List.getLast?_concat] at hw'; cases hw'
      exact ⟨rfl, rfl, rfl, rfl⟩

/-- The whole of a dispatch after the key event: the queued writes, then the start of the next scan pass. -/
theorem steps_dispatch (s : State) (ws : List LcdWrite) (h0 : s.rstSched = []) (hph : s.ph = .dispatch)
    (hkev : s.kev = false) (hidle : s.lph = .idle) (hq : s.txq = ws) :
    ∃ u, steps (ws.length * lcdEdges s.cfg + 1) s = .next { u with row := 0, ph := .drive } ∧
      u.txq = [] ∧ Sent s ws u := by
  obtain ⟨u, hrun, hqu, hsent⟩ := steps_queued_writes ws s [] h0 hph hkev hidle (by rw [hq, List.append_nil])
  have hfield {α : Type} (f : State → α) := congrArg f hsent.frame
  have hleave := step_leave_dispatch u ((hfield State.rstSched).trans h0) ((hfield State.ph).trans hph)
    ((hfield State.kev).trans hkev) hqu
  exact ⟨u, steps_trans hrun (steps_one _ _ hleave), hqu, hsent⟩

/-- Settles O48. -/
theorem queuedWritesReachTheBusInOrder : Obligations.QueuedWritesReachTheBusInOrder := by
  intro s ws h0 hph hkev hidle hq
  obtain ⟨u, hrun, hqu, hframe, hlines⟩ := steps_dispatch s ws h0 hph hkev hidle hq
  have hfield {α : Type} (f : State → α) := congrArg f hframe
  exact ⟨_, hrun, hfield State.trace, hqu, rfl, rfl, (hfield State.lph).trans hidle, hfield State.calcState,
    hfield State.rowPins, hfield State.rowTrace, hfield State.keys, hlines⟩

/-! ### A key event and one press (R135, R136, R186) -/

/-- Settles O47: the edge that applies the key, then the dispatch of its writes. -/
theorem keyEventRunsToTheNextScan : Obligations.KeyEventRunsToTheNextScan := by
  intro s h0 hph hkev hidle hq ht
  have hkey : step s = .next { s.withEffect (applyTable s.cfg s.kcode s.calcState) with kev := false } := by
    rw [step_key s h0 hph hkev, keysFollowTheTable s s.kcode ht]; rfl
  obtain ⟨u, hrun, hqu, hframe, -⟩ := steps_dispatch
    { s.withEffect (applyTable s.cfg s.kcode s.calcState) with kev := false }
    (applyTable s.cfg s.kcode s.calcState).writes h0 hph rfl hidle (by rw [State.withEffect, hq, List.nil_append])
  have hfield {α : Type} (f : State → α) := congrArg f hframe
  have hedges (n : Nat) : 2 + n = 1 + (n + 1) := by omega
  rw [hedges]
  exact ⟨_, steps_trans (steps_one _ _ hkey) hrun, hfield State.calcState, hfield State.trace, rfl, rfl,
    hfield State.kev, (hfield State.lph).trans hidle, hqu, hfield State.rowPins, hfield State.rowTrace,
    hfield State.kpos, hfield State.kcode, hfield State.closed, hfield State.keys, hfield State.draws,
    hfield State.cfg, (hfield State.rstSched).trans h0⟩

/-- With row `j` driven, a column reads the complement of its switch. -/
theorem colLines_row_getLsbD (j : Nat) (hj : j ≤ 3) (x : BitVec 16) (c : BitVec 2) :
    (colLines (rowPattern (BitVec.ofNat 2 j)) x).getLsbD c.toNat = !(matrixRow x j).getLsbD c.toNat := by
  have hc : c.toNat < 4 := c.isLt
  rw [colLines_rowPattern, BitVec.toNat_ofNat, Nat.mod_eq_of_lt (by omega), BitVec.getLsbD_not]
  simp [hc]

/-- Settles O49: the scan that finds the key, the press step, and the key event with its writes. -/
theorem onePressGivesOneKeyEvent : Obligations.OnePressGivesOneKeyEvent := by
  intro s ms lows rest m high c h0 hph hrow hidle hq hkev ht hk hlen hopen hc hlows hhigh
  let found := s.found ms.length c m (lows ++ high :: rest)
  have hscan : steps _ s = .next found := scanPassFindsFirstKey s ms _ m c h0 hph hrow hlen hk hopen hc
  have hcol (x : BitVec 16) : (colLines found.rowPins x).getLsbD (posCol found.kpos).toNat =
      !(matrixRow x ms.length).getLsbD c.toNat := by
    rw [show posCol found.kpos = c from posCol_posOf _ c]
    exact colLines_row_getLsbD ms.length hlen x c
  have hpress := steps_hold_settle found high lows rest h0 rfl rfl
    (fun x hx => by rw [hcol, hlows x hx]; rfl) (by rw [hcol, hhigh]; rfl)
  obtain ⟨t, hrun, hcalc, htrace, htph, htrow, htkev, htlph, httxq, -, htrowTrace, -, -, -, htkeys, htdraws, htcfg,
    htrst⟩ := keyEventRunsToTheNextScan
      { found with ph := .dispatch, kev := true, dly := 0, closed := high, keys := rest } h0 rfl rfl hidle hq ht
  exact ⟨_, t, steps_trans (steps_trans hscan hpress) hrun, hcalc, htrace, htrowTrace, htph, htrow, htlph, httxq, htkev,
    htkeys, htdraws, htcfg, htrst⟩

end Sys2Proof.Machine
end
